-- ==== Sys2Proof/Word.lean ====
section
/-! DEFINITION. The data formats of the hardware (`30_encoding.md` rule R71): byte, nibble, word, block, and the
4 by 4 byte matrix that the spec calls the State (`10_state.md` rule R21). -/

namespace Sys2Proof

/-- BYTE (R71): 8 bits, unsigned. -/
abbrev Byte := BitVec 8

/-- A nibble (R8): 4 bits. -/
abbrev Nibble := BitVec 4

/-- WORD (R71): 32 bits, `{b0, b1, b2, b3}` with the first byte most significant. -/
abbrev Word := BitVec 32

/-- BLOCK and ROUNDKEY (R71) as they stand on a 128-bit port: byte 0 in bits [127:120] (`20_memory.md` rule R57). -/
abbrev Block := BitVec 128

/-- One column of the State matrix, top to bottom: the bytes of rows 0, 1, 2 and 3. -/
structure Column where
  r0 : Byte
  r1 : Byte
  r2 : Byte
  r3 : Byte
deriving DecidableEq, Repr

/-- The 4 by 4 byte matrix `ST` (R21), column by column as `20_memory.md` rule R56 fills it. -/
structure StateMatrix where
  c0 : Column
  c1 : Column
  c2 : Column
  c3 : Column
deriving DecidableEq, Repr

/-- A column of four zero bytes. -/
def Column.zero : Column := ⟨0#8, 0#8, 0#8, 0#8⟩

/-- A matrix of sixteen zero bytes. -/
def StateMatrix.zero : StateMatrix := ⟨Column.zero, Column.zero, Column.zero, Column.zero⟩

end Sys2Proof
end

