-- ==== Sys2Proof/Config.lean ====
section
/-! DEFINITION. What is fixed for the machine: the parameters of `00_scope.md` rules R6 and R7, the parameters the
spec leaves open, and the free values. -/

namespace Sys2Proof

/-- `KEY_BYTES` (R6): bytes in the key; any other length is `InvalidKeyLength`. -/
abbrev Config.keyBytes : Nat := 16

/-- `Nr` (R6): total round count. -/
abbrev Config.nr : Nat := 10

/-- `NW` (R6): words in the RoundKeySchedule, indexed 0..43. -/
abbrev Config.nw : Nat := 44

/-- `NRK` (R6): round keys of 16 bytes each. -/
abbrev Config.nrk : Nat := 11

/-- `RCON_ENTRIES` (R6). -/
abbrev Config.rconEntries : Nat := 10

/-- `REDUCE` (R6): the byte XORed in on reduction, the low byte of `POLY` 0x11B. -/
abbrev Config.reduce : Byte := 0x1B#8

/-- `STEP_CYCLES` (R7, R221, `93_implementation_defined.md` U11): clock edges per step. Nothing in the model reads
it: no rule and no claim may depend on cycle counts. [entry 19] -/
opaque Config.stepCycles : Nat

/-- `SHARED_ROM` (R7, R67, U13): whether instances share one table ROM. Nothing in the model reads it: it has no
observable effect. [entry 19] -/
opaque Config.sharedRom : Bool

/-- FREE VALUE: the bits of the `n`-th value that the spec leaves open, `w` bits wide. It has no body, so no proof can
know what it is. `n` is the counter `draws` of the machine's state. Used for: the data registers after RESET
[entry 6], the output of RCONW for an index 10..15 [entry 7], `rk_out` where it is unspecified [entry 8]. -/
opaque Config.freeBits (w n : Nat) : BitVec w

/-- FREE VALUE: what stands on the internal port `rk_sel` in a phase that reads no round key. `10_state.md` rule R29
gives the port a value in ENC_INIT, ENC_ROUND and ENC_FINAL only; `20_memory.md` rule R59 keeps it at 10 or below, and
that bound is all that is known of it. DESIGN CHOICE: a value that may depend on `PHASE` and `RND` [entry 23]. -/
opaque Config.rkSelElsewhere (phase : BitVec 3) (rnd : BitVec 4) : Fin 11

end Sys2Proof
end

