-- ==== Sys2Proof/Syntax.lean ====
section
/-! DEFINITION. The closed list of the eighteen operations (`30_encoding.md` rule R77), one constructor per row of
`spec/opcode_table.json`, in the table's order, each with the operands the spec gives it. -/

namespace Sys2Proof

/-- An operation of the block with its operands. Operands an operation does not sample are not part of it (R216). -/
inductive Instr where
  /-- GFMUL, UNIT (R100): the bytes `a[7:0]` and `b[7:0]`. -/
  | gfmul (a b : Byte)
  /-- SBOX, UNIT (R110): the byte `x[7:0]`, row in the high nibble, column in the low one. -/
  | sbox (x : Byte)
  /-- SUBBYTES, UNIT (R120). -/
  | subbytes (s : Block)
  /-- SHIFTROWS, UNIT (R121). -/
  | shiftrows (s : Block)
  /-- MIXCOLUMNS, UNIT (R122). -/
  | mixcolumns (s : Block)
  /-- ADDROUNDKEY, UNIT (R123): the State `s_in` and the round key `rk_in`. -/
  | addroundkey (s k : Block)
  /-- ROTWORD, UNIT (R140). -/
  | rotword (w : Word)
  /-- SUBWORD, UNIT (R141). -/
  | subword (w : Word)
  /-- RCONW, UNIT (R142): the index `j[3:0]`, legal 0..9. -/
  | rconw (j : Nibble)
  /-- NOP, CMD, `cmd == 0` (R162). -/
  | nop
  /-- EXPAND_KEY, CMD, `cmd == 1` (R163): `key_len[7:0]` and `key_in[127:0]`. -/
  | expandKey (keyLen : Byte) (key : Block)
  /-- ENCRYPT_BLOCK, CMD, `cmd == 2` (R164): `pt_in[127:0]`. -/
  | encryptBlock (pt : Block)
  /-- RSVD3, CMD, `cmd == 3` (R175). -/
  | rsvd3
  /-- KS_WORD, STEP, `PHASE == 1` (R147). -/
  | ksWord
  /-- ENC_INIT, STEP, `PHASE == 2` (R165). -/
  | encInit
  /-- ENC_ROUND, STEP, `PHASE == 3` (R166). -/
  | encRound
  /-- ENC_FINAL, STEP, `PHASE == 4` (R167). -/
  | encFinal
  /-- RESET, PIN, `rst == 1` (R210). -/
  | reset
deriving DecidableEq, Repr

end Sys2Proof
end

