-- ==== Sys2Proof/WellFormed.lean ====
section
/-! DEFINITION. Which operations are legal as written. Every operand has the exact width of its port, so the one
check left is the range of the RCONW index (`30_encoding.md` rule R75: legal 0..9). -/

namespace Sys2Proof

/-- The RCON index is one of the ten that exist (R52, R75, R78). -/
def rconIndexLegal (j : Nibble) : Bool := decide (j.toNat < Config.rconEntries)

/-- Legal as written. `key_len != 16` is a legal command with an invalid operand (R78), so it is well formed. -/
def Instr.wellFormed : Instr → Bool
  | .rconw j => rconIndexLegal j
  | .gfmul _ _ => true
  | .sbox _ => true
  | .subbytes _ => true
  | .shiftrows _ => true
  | .mixcolumns _ => true
  | .addroundkey _ _ => true
  | .rotword _ => true
  | .subword _ => true
  | .nop => true
  | .expandKey _ _ => true
  | .encryptBlock _ => true
  | .rsvd3 => true
  | .ksWord => true
  | .encInit => true
  | .encRound => true
  | .encFinal => true
  | .reset => true

end Sys2Proof
end

