-- ==== Sys2Proof/Decode.lean ====
section
/-! DEFINITION. The four operation formats (`30_encoding.md` rules R70 to R75), the decoder, total on every bit
pattern and rejecting by name, and after it the encoder, written from the same tables. The block fetches no
instruction words: what is decoded is the bit vector that selects and feeds one operation. -/

namespace Sys2Proof

/-- The input ports of one step (R27), in the three parts of the stimulus word (R73): `ctl = {rst, cmd[1:0],
key_len[7:0]}`, `key_in[127:0]`, `pt_in[127:0]`. -/
structure StimulusWord where
  ctl : BitVec 11
  keyIn : Block
  ptIn : Block
deriving DecidableEq, Repr

/-- The input vector of a UNIT operation (R75): the module instance is the constructor, since the format has no
selector bits, and the vector has exactly the module's width. -/
inductive UnitInput where
  /-- `{a[7:0], b[7:0]}`. -/
  | galoisFieldMult (v : BitVec 16)
  /-- `{hi[3:0], lo[3:0]}`. -/
  | aes128Sbox (v : BitVec 8)
  | aesSubbytes (v : BitVec 128)
  | aesShiftrows (v : BitVec 128)
  | aesMixcolumns (v : BitVec 128)
  /-- `{s_in[127:0], rk_in[127:0]}`. -/
  | aesAddroundkey (v : BitVec 256)
  | rotWord (v : BitVec 32)
  | subWord (v : BitVec 32)
  | rconW (v : BitVec 4)
deriving DecidableEq, Repr

/-- The bit vector that selects and feeds one operation (R70): a UNIT input vector, a stimulus word (formats CMD and
PIN), or the register `PHASE` (format STEP). -/
inductive Encoding where
  | unit (u : UnitInput)
  | stimulus (w : StimulusWord)
  | phase (p : BitVec 3)
deriving DecidableEq, Repr

/-- Why bits select no operation. -/
inductive DecodeError where
  /-- `PHASE` 6 or 7: no rule gives these codes a step (R78, U2). -/
  | unreachablePhase (p : BitVec 3)
  /-- `PHASE` IDLE or DONE selects no micro-operation; the command decides (R74). -/
  | restPhase (p : BitVec 3)
deriving DecidableEq, Repr

/-- The six phases (`10_state.md` rule R23). -/
inductive Phase where
  | idle
  | ks
  | init
  | round
  | final
  | done
deriving DecidableEq, Repr

/-- The 3-bit code of a phase (R23). -/
def Phase.code : Phase → BitVec 3
  | .idle => 0#3
  | .ks => 1#3
  | .init => 2#3
  | .round => 3#3
  | .final => 4#3
  | .done => 5#3

/-- The phase of a 3-bit code; 6 and 7 are no phase (R23). -/
def Phase.ofCode (p : BitVec 3) : Option Phase :=
  if p = 0#3 then some .idle
  else if p = 1#3 then some .ks
  else if p = 2#3 then some .init
  else if p = 3#3 then some .round
  else if p = 4#3 then some .final
  else if p = 5#3 then some .done
  else none

/-- `busy` (R26): KS, INIT, ROUND and FINAL. -/
def Phase.busy : Phase → Bool
  | .idle => false
  | .ks => true
  | .init => true
  | .round => true
  | .final => true
  | .done => false

/-- The port `rst`: bit 10 of `ctl` (R73). -/
def StimulusWord.rst (w : StimulusWord) : Bool := w.ctl.getLsbD 10

/-- The port `cmd[1:0]`: bits 9 and 8 of `ctl` (R73). -/
def StimulusWord.cmd (w : StimulusWord) : BitVec 2 := w.ctl.extractLsb' 8 2

/-- The port `key_len[7:0]`: bits 7 to 0 of `ctl` (R73). -/
def StimulusWord.keyLen (w : StimulusWord) : Byte := w.ctl.extractLsb' 0 8

/-- The whole 267-bit vector `{rst, cmd, key_len, key_in, pt_in}` (R73). -/
def StimulusWord.toBits (w : StimulusWord) : BitVec 267 := w.ctl ++ w.keyIn ++ w.ptIn

/-- The three parts of a 267-bit stimulus vector (R73). -/
def StimulusWord.ofBits (v : BitVec 267) : StimulusWord :=
  ⟨v.extractLsb' 256 11, v.extractLsb' 128 128, v.extractLsb' 0 128⟩

/-- The ports of an idle host: `rst = 0`, `cmd = 0` (NOP), unsampled fields zero (R73, R173). -/
def StimulusWord.idle : StimulusWord := ⟨0#11, 0#128, 0#128⟩

/-- The PIN and CMD rows (R72, R73): `rst` first, then `cmd`. Total: every `ctl` is one of the five rows. -/
def decodeStimulus (w : StimulusWord) : Instr :=
  if w.rst then .reset
  else if w.cmd = 0#2 then .nop
  else if w.cmd = 1#2 then .expandKey w.keyLen w.keyIn
  else if w.cmd = 2#2 then .encryptBlock w.ptIn
  else .rsvd3

/-- The micro-operation of a phase; a rest phase has none (R74). -/
def Phase.microOp : Phase → Option Instr
  | .idle => none
  | .ks => some .ksWord
  | .init => some .encInit
  | .round => some .encRound
  | .final => some .encFinal
  | .done => none

/-- The STEP rows (R74). -/
def decodePhase (p : BitVec 3) : Except DecodeError Instr :=
  match Phase.ofCode p with
  | none => .error (.unreachablePhase p)
  | some ph =>
    match ph.microOp with
    | some i => .ok i
    | none => .error (.restPhase p)

/-- The UNIT rows (R75). Total: every vector of a module's width is legal as an input (RCONW 10..15 included: only its
output is unspecified, R78). -/
def decodeUnit : UnitInput → Instr
  | .galoisFieldMult v => .gfmul (v.extractLsb' 8 8) (v.extractLsb' 0 8)
  | .aes128Sbox v => .sbox v
  | .aesSubbytes v => .subbytes v
  | .aesShiftrows v => .shiftrows v
  | .aesMixcolumns v => .mixcolumns v
  | .aesAddroundkey v => .addroundkey (v.extractLsb' 128 128) (v.extractLsb' 0 128)
  | .rotWord v => .rotword v
  | .subWord v => .subword v
  | .rconW v => .rconw v

/-- The decoder of one format's bits. -/
def decode : Encoding → Except DecodeError Instr
  | .unit u => .ok (decodeUnit u)
  | .stimulus w => .ok (decodeStimulus w)
  | .phase p => decodePhase p

/-- The decoder of the whole block (R70, R171, R194): if `rst` then RESET, else in a busy phase that phase's
micro-operation, else the operation of `cmd`. -/
def decodeTop (p : BitVec 3) (w : StimulusWord) : Except DecodeError Instr :=
  if w.rst then .ok .reset
  else
    match Phase.ofCode p with
    | none => .error (.unreachablePhase p)
    | some ph =>
      match ph.microOp with
      | some i => .ok i
      | none => .ok (decodeStimulus w)

/-- A stimulus word from its fields, `ctl = {rst, cmd, key_len}` (R73). -/
def StimulusWord.ofFields (rst : Bool) (cmd : BitVec 2) (keyLen : Byte) (keyIn ptIn : Block) : StimulusWord :=
  ⟨BitVec.ofBool rst ++ cmd ++ keyLen, keyIn, ptIn⟩

/-- The encoder (R72 to R75). Fields an operation does not sample are written as zeros (R73). -/
def encode : Instr → Encoding
  | .gfmul a b => .unit (.galoisFieldMult (a ++ b))
  | .sbox x => .unit (.aes128Sbox x)
  | .subbytes s => .unit (.aesSubbytes s)
  | .shiftrows s => .unit (.aesShiftrows s)
  | .mixcolumns s => .unit (.aesMixcolumns s)
  | .addroundkey s k => .unit (.aesAddroundkey (s ++ k))
  | .rotword w => .unit (.rotWord w)
  | .subword w => .unit (.subWord w)
  | .rconw j => .unit (.rconW j)
  | .nop => .stimulus (.ofFields false 0#2 0#8 0#128 0#128)
  | .expandKey n k => .stimulus (.ofFields false 1#2 n k 0#128)
  | .encryptBlock p => .stimulus (.ofFields false 2#2 0#8 0#128 p)
  | .rsvd3 => .stimulus (.ofFields false 3#2 0#8 0#128 0#128)
  | .ksWord => .phase 1#3
  | .encInit => .phase 2#3
  | .encRound => .phase 3#3
  | .encFinal => .phase 4#3
  | .reset => .stimulus (.ofFields true 0#2 0#8 0#128 0#128)

/-- The encoding that a word of `spec/opcode_table.json` is, told from its width in bits (or in whole bytes): 3 or 8
bits are `PHASE`, 11 or 16 are `ctl` with the data ports zero, 4 are an RCONW index, 256 an ADDROUNDKEY vector. The
other UNIT widths (8, 16, 32, 128) do not say which module is meant, because the format has no selector bits
(R70): such a word is refused, or read as the STEP or CMD row of that width. [entry 15] -/
def tableEncoding (nbits w : Nat) : Option Encoding :=
  if nbits = 3 ∨ nbits = 8 then
    if w < 8 then some (.phase (BitVec.ofNat 3 w)) else none
  else if nbits = 11 ∨ nbits = 16 then
    if w < 2048 then some (.stimulus ⟨BitVec.ofNat 11 w, 0#128, 0#128⟩) else none
  else if nbits = 4 then
    if w < 16 then some (.unit (.rconW (BitVec.ofNat 4 w))) else none
  else if nbits = 256 then
    if w < 2 ^ 256 then some (.unit (.aesAddroundkey (BitVec.ofNat 256 w))) else none
  else none

/-- What the decoder reads from a word of the table. -/
def decodeTableWord (nbits w : Nat) : Option Instr :=
  match tableEncoding nbits w with
  | none => none
  | some e =>
    match decode e with
    | .ok i => some i
    | .error _ => none

end Sys2Proof
end

