-- ==== Sys2Proof/Machine/State.lean ====
section
/-! DEFINITION. The machine's state (`10_state.md` rule R20 and the ports of rule R28), the reasons a step stops, the
state after reset, and one setter per field. -/

namespace Sys2Proof.Machine

/-- The condition of a WAIT line (`30_encoding.md` rule R80). -/
inductive WaitFor where
  | keyValid
  | done
  | idle
deriving DecidableEq, Repr

/-- One line of what the outside is going to do (R13, R79, R80): a stimulus word on the top's ports, an input vector
on a leaf module's ports, or a WAIT. MODEL's own type [entries 1, 4, 17]. -/
inductive HostLine where
  | stimulus (w : StimulusWord)
  | unit (u : UnitInput)
  | wait (c : WaitFor)
deriving DecidableEq, Repr

/-- The output ports of the combinational modules (R28) and of the key scheduler's three sub-functions (R75): the value
that a port shows under the operands driven in the step just made, absent where its module was not driven in it. A
module holds nothing (R28, R31): every step starts with all of them absent. [entry 4] -/
structure UnitPorts where
  gfmulP : Option Byte
  sboxY : Option Byte
  subbytesOut : Option Block
  shiftrowsOut : Option Block
  mixcolumnsOut : Option Block
  addroundkeyOut : Option Block
  rotwordOut : Option Word
  subwordOut : Option Word
  rconwOut : Option Word
deriving DecidableEq, Repr

/-- No module is driven. -/
def UnitPorts.undriven : UnitPorts := ⟨none, none, none, none, none, none, none, none, none⟩

/-- The state of the block: the seven elements of R20 and nothing else (R14, R31). -/
structure CoreState where
  /-- `ST` (R21): the State of the current or last encryption. -/
  st : StateMatrix
  /-- `RK[0..43]` (R22): the RoundKeySchedule. -/
  rk : Vector Word 44
  /-- `PHASE` (R23), 3 bits. -/
  phase : BitVec 3
  /-- `RND` (R24), 4 bits. -/
  rnd : BitVec 4
  /-- `KI` (R25), 6 bits. -/
  ki : BitVec 6
  /-- `KEY_VALID` (R26). -/
  keyValid : Bool
  /-- `ERR` (R26). -/
  err : Bool
deriving DecidableEq, Repr

/-- What one step of the model works on: the state of the block (`toCoreState`), and beside it what the spec does not
count as state, which stands here because a step is a function of one value: the outputs of the step just made, the
inputs of the steps to come, and the counter of free values. [entries 1, 4, 6] -/
structure State extends CoreState where
  /-- Outputs of the leaf modules in the step just made (R28). [entry 4] -/
  unit : UnitPorts
  /-- MODEL's own: the inputs of the steps to come, next first. [entry 1] -/
  pending : List HostLine
  /-- MODEL's own: how many free values have been taken. [entry 6] -/
  draws : Nat
deriving DecidableEq, Repr

/-- Why the machine stops. Both are unreachable from reset. -/
inductive Fault where
  /-- Raised by `step` when the bits select no operation, that is when `PHASE` is 6 or 7 (R78: no step, stuck). Safe:
  the spec says nothing of such a state. [entry 10] -/
  | undecodable (e : DecodeError)
  /-- Raised by KS_WORD when `KI` is outside 4..43, so that the word written or a word read would be outside
  `RK[0..43]` (R25, R50). Safe: the spec says the case never arises. [entry 11] -/
  | keyIndexOutOfRange (ki : BitVec 6)
deriving DecidableEq, Repr

/-- Why an operation has no meaning. -/
inductive Refusal where
  /-- Raised by an arm of `exec` whose operation is not modelled; no arm does. Safe. -/
  | notModelled (mnemonic : String)
deriving DecidableEq, Repr

/-- What an operation answers. -/
abbrev Result := Host.Outcome State Fault Refusal

/-- The machine right after reset (R211): `PHASE = IDLE`, `KEY_VALID = 0`, `ERR = 0`. The spec gives `ST`, `RK`, `RND`
and `KI` no value; DESIGN CHOICE zero for the data, the least value of its range for each counter [entry 5]. -/
def State.reset : State where
  st := StateMatrix.zero
  rk := Vector.replicate 44 0#32
  phase := 0#3
  rnd := 1#4
  ki := 4#6
  keyValid := false
  err := false
  unit := UnitPorts.undriven
  pending := []
  draws := 0

/-- `ST <- v`. -/
def State.setSt (s : State) (v : StateMatrix) : State := { s with st := v }
/-- Replace the file `RK`. -/
def State.setRk (s : State) (v : Vector Word 44) : State := { s with rk := v }
/-- `PHASE <- v`. -/
def State.setPhase (s : State) (v : BitVec 3) : State := { s with phase := v }
/-- `RND <- v`. -/
def State.setRnd (s : State) (v : BitVec 4) : State := { s with rnd := v }
/-- `KI <- v`. -/
def State.setKi (s : State) (v : BitVec 6) : State := { s with ki := v }
/-- `KEY_VALID <- v`. -/
def State.setKeyValid (s : State) (v : Bool) : State := { s with keyValid := v }
/-- `ERR <- v`. -/
def State.setErr (s : State) (v : Bool) : State := { s with err := v }
/-- Replace the module outputs. -/
def State.setUnit (s : State) (v : UnitPorts) : State := { s with unit := v }
/-- Replace the pending host lines. -/
def State.setPending (s : State) (v : List HostLine) : State := { s with pending := v }
/-- Replace the counter of free values. -/
def State.setDraws (s : State) (v : Nat) : State := { s with draws := v }

end Sys2Proof.Machine
end

