-- ==== Sys2Proof/Machine/Operands.lean ====
section
/-! DEFINITION. How operands are put together from bits (`30_encoding.md` rule R76, `20_memory.md` rules R55 to R58):
bytes of a word, bytes and words of a block, the State matrix against a block, round keys against the schedule. -/

namespace Sys2Proof.Machine

/-- The word `{b0, b1, b2, b3}`, first byte most significant (R55). -/
def wordOfBytes (b0 b1 b2 b3 : Byte) : Word := b0 ++ b1 ++ b2 ++ b3

/-- Byte `n` (0..3) of a word: bits [31-8n : 24-8n] (R55). -/
def wordByte (w : Word) (n : Nat) : Byte := w.extractLsb' (24 - 8 * n) 8

/-- Byte `b` (0..15) of a block: bits [127-8b : 120-8b] (R57). -/
def blockByte (p : Block) (b : Nat) : Byte := p.extractLsb' (120 - 8 * b) 8

/-- Word `j` (0..3) of a block: bits [127-32j : 96-32j] (R57). -/
def blockWord (p : Block) (j : Nat) : Word := p.extractLsb' (96 - 32 * j) 32

/-- The block `{w0, w1, w2, w3}` (R57, R58). -/
def blockOfWords (w0 w1 w2 w3 : Word) : Block := w0 ++ w1 ++ w2 ++ w3

/-- The byte at row `r` (0..3) of a column. -/
def columnByte (k : Column) (r : Nat) : Byte :=
  match r with
  | 0 => k.r0
  | 1 => k.r1
  | 2 => k.r2
  | _ => k.r3

/-- Column `c` (0..3) of the matrix. -/
def matrixColumn (m : StateMatrix) (c : Nat) : Column :=
  match c with
  | 0 => m.c0
  | 1 => m.c1
  | 2 => m.c2
  | _ => m.c3

/-- `ST[r][c]` (R21). -/
def cell (m : StateMatrix) (r c : Nat) : Byte := columnByte (matrixColumn m c) r

/-- Column `c` of a block: its bytes `4c .. 4c+3` top to bottom (R56, R122). -/
def blockColumn (p : Block) (c : Nat) : Column :=
  ⟨blockByte p (4 * c), blockByte p (1 + 4 * c), blockByte p (2 + 4 * c), blockByte p (3 + 4 * c)⟩

/-- `LoadState(block)`: `ST[r][c] = block[r + 4c]` (R56). -/
def loadState (p : Block) : StateMatrix :=
  ⟨blockColumn p 0, blockColumn p 1, blockColumn p 2, blockColumn p 3⟩

/-- The word whose bytes are a column, row 0 on top (R58). -/
def columnWord (c : Column) : Word := wordOfBytes c.r0 c.r1 c.r2 c.r3

/-- `StoreState(ST)`: `block[r + 4c] = ST[r][c]` (R56). -/
def storeState (m : StateMatrix) : Block :=
  blockOfWords (columnWord m.c0) (columnWord m.c1) (columnWord m.c2) (columnWord m.c3)

/-- Read of `RK[i]`. Every caller forms an index 0..43 (R59); the default is never read. -/
def rkWord (rk : Vector Word 44) (i : Nat) : Word := rk.getD i 0#32

/-- `RoundKey(k) = {RK[4k], RK[4k+1], RK[4k+2], RK[4k+3]}` for k = 0..10 (R149, R58). -/
def roundKey (rk : Vector Word 44) (k : Nat) : Block :=
  blockOfWords (rkWord rk (4 * k)) (rkWord rk (4 * k + 1)) (rkWord rk (4 * k + 2)) (rkWord rk (4 * k + 3))

/-- The key-length check `key_len == 16` (R145, R191). -/
def keyLengthOk (n : Byte) : Bool := decide (n.toNat = Config.keyBytes)

end Sys2Proof.Machine
end

