-- ==== Sys2Proof/Machine/Cipher.lean ====
section
/-! DEFINITION. The pure functions of the algorithm: the four round transforms (`42_round_transforms.md` rules R120 to
R123), the word operations and the key expansion (`43_key_scheduler.md` rules R140 to R144), the whole encryption
(`44_cipher_top.md` rule R160). Value in, value out (R125, R215). -/

namespace Sys2Proof.Machine

/-- Apply a byte function to the four bytes of a column. -/
def mapColumn (f : Byte → Byte) (k : Column) : Column := ⟨f k.r0, f k.r1, f k.r2, f k.r3⟩

/-- XOR of two columns, byte by byte. -/
def xorColumn (k l : Column) : Column := ⟨k.r0 ^^^ l.r0, k.r1 ^^^ l.r1, k.r2 ^^^ l.r2, k.r3 ^^^ l.r3⟩

/-- SUBBYTES (R120): `t[r][c] = SBOX[s[r][c]]`. -/
def subBytes (m : StateMatrix) : StateMatrix :=
  ⟨mapColumn sboxByte m.c0, mapColumn sboxByte m.c1, mapColumn sboxByte m.c2, mapColumn sboxByte m.c3⟩

/-- SHIFTROWS (R121): `t[r][c] = s[r][(c + r) mod 4]`, row r rotated to the LEFT by r (`90_conflicts.md` C1). -/
def shiftRows (m : StateMatrix) : StateMatrix :=
  ⟨⟨m.c0.r0, m.c1.r1, m.c2.r2, m.c3.r3⟩, ⟨m.c1.r0, m.c2.r1, m.c3.r2, m.c0.r3⟩,
   ⟨m.c2.r0, m.c3.r1, m.c0.r2, m.c1.r3⟩, ⟨m.c3.r0, m.c0.r1, m.c1.r2, m.c2.r3⟩⟩

/-- One column of MIXCOLUMNS (R122), the four equations as the rule writes them out. -/
def mixColumn (k : Column) : Column :=
  ⟨gfMul 0x02#8 k.r0 ^^^ gfMul 0x03#8 k.r1 ^^^ k.r2 ^^^ k.r3,
   k.r0 ^^^ gfMul 0x02#8 k.r1 ^^^ gfMul 0x03#8 k.r2 ^^^ k.r3,
   k.r0 ^^^ k.r1 ^^^ gfMul 0x02#8 k.r2 ^^^ gfMul 0x03#8 k.r3,
   gfMul 0x03#8 k.r0 ^^^ k.r1 ^^^ k.r2 ^^^ gfMul 0x02#8 k.r3⟩

/-- MIXCOLUMNS (R122): every column multiplied by the fixed matrix. -/
def mixColumns (m : StateMatrix) : StateMatrix :=
  ⟨mixColumn m.c0, mixColumn m.c1, mixColumn m.c2, mixColumn m.c3⟩

/-- ADDROUNDKEY (R123): `t[r][c] = s[r][c] ^ k[r][c]`. -/
def addRoundKey (m k : StateMatrix) : StateMatrix :=
  ⟨xorColumn m.c0 k.c0, xorColumn m.c1 k.c1, xorColumn m.c2 k.c2, xorColumn m.c3 k.c3⟩

/-- One full round (R166): SubBytes, ShiftRows, MixColumns, AddRoundKey, in that order. -/
def fullRound (m : StateMatrix) (k : Block) : StateMatrix :=
  addRoundKey (mixColumns (shiftRows (subBytes m))) (loadState k)

/-- The final round (R167): SubBytes, ShiftRows, AddRoundKey; MixColumns is omitted. -/
def finalRound (m : StateMatrix) (k : Block) : StateMatrix :=
  addRoundKey (shiftRows (subBytes m)) (loadState k)

/-- ROTWORD (R140): `rotl32(w, 8)`. -/
def rotWord (w : Word) : Word := w.rotateLeft 8

/-- SUBWORD (R141): the S-Box on each byte, positions kept. -/
def subWord (w : Word) : Word :=
  wordOfBytes (sboxByte (wordByte w 0)) (sboxByte (wordByte w 1)) (sboxByte (wordByte w 2)) (sboxByte (wordByte w 3))

/-- `ks_temp(i, p)` (R143), for 4 <= i <= 43 and `p = w[i-1]`. -/
def ksTemp (i : Nat) (p : Word) : Word :=
  if i % 4 = 0 then subWord (rotWord p) ^^^ rconWord (i / 4 - 1) else p

/-- `n` words of the recurrence `w[i] = w[i-4] ^ ks_temp(i, w[i-1])` (R144) from index `i` on, given the four words
before it. -/
def expandTail : Nat → Nat → Word → Word → Word → Word → List Word
  | 0, _, _, _, _, _ => []
  | n + 1, i, w0, w1, w2, w3 =>
    (w0 ^^^ ksTemp i w3) :: expandTail n (i + 1) w1 w2 w3 (w0 ^^^ ksTemp i w3)

/-- `expand_key` (R144): the key's four words, then the words i = 4..43. -/
def expandKey (key : Block) : List Word :=
  [blockWord key 0, blockWord key 1, blockWord key 2, blockWord key 3]
    ++ expandTail 40 4 (blockWord key 0) (blockWord key 1) (blockWord key 2) (blockWord key 3)

/-- The schedule file whose words are a list's. -/
def scheduleOfList (l : List Word) : Vector Word 44 := Vector.ofFn fun i => l.getD i.val 0#32

/-- `n` full rounds, the first of them round `r` (R160, RoundLoop). -/
def roundLoop (w : Vector Word 44) : Nat → Nat → StateMatrix → StateMatrix
  | 0, _, m => m
  | n + 1, r, m => roundLoop w n (r + 1) (fullRound m (roundKey w r))

/-- `encrypt_block(w, pt)` (R160): Init, nine rounds, the final round. -/
def encryptBlock (w : Vector Word 44) (pt : Block) : Block :=
  storeState (finalRound (roundLoop w 9 1 (addRoundKey (loadState pt) (loadState (roundKey w 0)))) (roundKey w 10))

end Sys2Proof.Machine
end

