-- ==== Sys2Proof/Machine/Flags.lean ====
section
/-! DEFINITION. The derived status bits (`10_state.md` rule R26), the output ports of the top (R27), and the key
scheduler's own boundary (R29). There are no condition codes (R26). -/

namespace Sys2Proof.Machine

/-- `busy` (R26): `PHASE` in KS, INIT, ROUND, FINAL. -/
def State.busy (s : State) : Bool :=
  match Phase.ofCode s.phase with
  | some p => p.busy
  | none => false

/-- At rest (R161): `PHASE` is IDLE or DONE; commands are accepted. -/
def State.atRest (s : State) : Bool :=
  match Phase.ofCode s.phase with
  | some p => !p.busy
  | none => false

/-- `done` (R26): `PHASE == DONE`. -/
def State.done (s : State) : Bool := decide (s.phase = Phase.done.code)

/-- `ct_out` (R27, R168, R218): `StoreState(ST)` while `done == 1`; an absent value otherwise. [entry 9] -/
def State.ctOut (s : State) : Option Block := if s.done then some (storeState s.st) else none

/-- The exception code (R190): 1 is `InvalidKeyLength`, 0 is no error. -/
def State.exceptionCode (s : State) : Nat := if s.err then 1 else 0

/-- What the host sees between steps (R27, R60). -/
structure Outputs where
  busy : Bool
  keyValid : Bool
  done : Bool
  err : Bool
  ctOut : Option Block
deriving DecidableEq, Repr

/-- The output ports of `aes128_cipher_top` (R27). -/
def State.outputs (s : State) : Outputs := ⟨s.busy, s.keyValid, s.done, s.err, s.ctOut⟩

/-- `ks_busy` (R29). -/
def State.ksBusy (s : State) : Bool := decide (s.phase = Phase.ks.code)

/-- `ks_start` (R29): 1 in the step in which the top accepts EXPAND_KEY. -/
def State.ksStart (s : State) (w : StimulusWord) : Bool := !w.rst && s.atRest && decide (w.cmd = 1#2)

/-- `rk_sel` (R29): 0 in ENC_INIT, `RND` in ENC_ROUND, 10 in ENC_FINAL. DESIGN CHOICE: in every other phase, where no
round key is read and the spec gives no value, a free value of at most 10 (R59) [entry 23]. -/
def State.rkSel (s : State) : BitVec 4 :=
  if s.phase = Phase.init.code then 0#4
  else if s.phase = Phase.round.code then s.rnd
  else if s.phase = Phase.final.code then 10#4
  else BitVec.ofFin ((Config.rkSelElsewhere s.phase s.rnd).castLE (by decide))

/-- `rk_out` is specified (R29): `key_valid == 1` and `rk_sel <= 10`. -/
def State.rkOutSpecified (s : State) (sel : BitVec 4) : Bool := s.keyValid && decide (sel.toNat ≤ Config.nr)

/-- A WAIT line still waits (R80): WAIT key_valid while `key_valid == 0 and err == 0`, WAIT done while `done == 0`,
WAIT idle while `busy == 1`. -/
def WaitFor.waiting (c : WaitFor) (s : State) : Bool :=
  match c with
  | .keyValid => !s.keyValid && !s.err
  | .done => !s.done
  | .idle => s.busy

end Sys2Proof.Machine
end

