-- ==== Sys2Proof/Machine/Ops.lean ====
section
/-! DEFINITION. The named operations over the machine's registers: taking a free value, reading a round key, writing a
schedule word, raising the one exception, the two accept steps, RESET's assignments. -/

namespace Sys2Proof.Machine

/-- Take a free value of `w` bits and advance the counter. [entries 6, 7, 8] -/
def State.draw (s : State) (w : Nat) : BitVec w × State :=
  (Config.freeBits w s.draws, s.setDraws (s.draws + 1))

/-- Read `RoundKey(sel)` through `rk_out` (R29, R149): the four schedule words where the port is specified, a free
value where it is not. [entry 8] -/
def State.readRoundKey (s : State) (sel : BitVec 4) : Block × State :=
  if s.rkOutSpecified sel then (roundKey s.rk sel.toNat, s) else s.draw 128

/-- `RK[i] <- v`, for an index 0..43 (R22). -/
def State.writeRk (s : State) (i : Nat) (v : Word) : State := s.setRk (s.rk.setIfInBounds i v)

/-- TAKING THE EXCEPTION `InvalidKeyLength` (`60_exceptions.md` rule R193): `ERR <- 1`, `KEY_VALID <- 0`,
`PHASE <- IDLE`; nothing is saved, the length is not stored (R190), `RK`, `KI`, `ST`, `RND` are not written. There is
no return operation (R195). -/
def State.raiseInvalidKeyLength (s : State) : State :=
  ((s.setErr true).setKeyValid false).setPhase Phase.idle.code

/-- `RK[0..3] <- key_in` (R146). -/
def State.loadKeyWords (s : State) (key : Block) : State :=
  (((s.writeRk 0 (blockWord key 0)).writeRk 1 (blockWord key 1)).writeRk 2 (blockWord key 2)).writeRk 3
    (blockWord key 3)

/-- KS_LOAD (R146), both branches. -/
def State.ksLoad (s : State) (keyLen : Byte) (key : Block) : State :=
  if keyLengthOk keyLen then
    ((((s.loadKeyWords key).setKi 4#6).setKeyValid false).setErr false).setPhase Phase.ks.code
  else s.raiseInvalidKeyLength

/-- The ENCRYPT_BLOCK accept step (R164): `ST <- LoadState(pt_in)`, `PHASE <- INIT`, if and only if
`KEY_VALID == 1` (R161). -/
def State.encryptAccept (s : State) (pt : Block) : State :=
  if s.keyValid then (s.setSt (loadState pt)).setPhase Phase.init.code else s

/-- Acceptance of a command by phase (R161): at rest the machine goes on to `t`; while busy the command is ignored and
nothing changes; `PHASE` 6 and 7 have no step (R78). [entries 10, 18] -/
def State.acceptAtRest (s t : State) : Result :=
  match Phase.ofCode s.phase with
  | some p => if p.busy then .next s else .next t
  | none => .fault (.undecodable (.unreachablePhase s.phase))

/-- The KS_WORD assignments for `i = KI` in 4..43 (R147). -/
def State.ksWordWrite (s : State) (i : Nat) : State :=
  let written := (s.writeRk i (rkWord s.rk (i - 4) ^^^ ksTemp i (rkWord s.rk (i - 1)))).setKi (s.ki + 1#6)
  if i = 43 then (written.setKeyValid true).setPhase Phase.idle.code else written

/-- The 44 words of `RK` after RESET, each a free value numbered from `n` on. [entry 6] -/
def freeSchedule (n : Nat) : Vector Word 44 := Vector.ofFn fun i => Config.freeBits 32 (n + i.val)

/-- `ST`, `RK[0..43]`, `RND` and `KI` "hold no value" after RESET (R210, R32): free values. [entry 6] -/
def State.loseData (s : State) : State :=
  ((((s.setSt (loadState (Config.freeBits 128 s.draws))).setRk (freeSchedule (s.draws + 1))).setRnd
    (Config.freeBits 4 (s.draws + 45))).setKi (Config.freeBits 6 (s.draws + 46))).setDraws (s.draws + 47)

/-- The three assignments of RESET (R210). -/
def State.resetControl (s : State) : State :=
  ((s.setPhase Phase.idle.code).setKeyValid false).setErr false

end Sys2Proof.Machine
end

