-- ==== Sys2Proof/Machine/Commands.lean ====
section
/-! DEFINITION. The host commands (`30_encoding.md` rule R72; `44_cipher_top.md` rules R161 to R164 and R175) and the
reset pin (`70_reset_and_hazards.md` rule R210). -/

namespace Sys2Proof.Machine

/-- NOP (R162): no state change. -/
def execNop (s : State) : Result := .next s

/-- EXPAND_KEY (R163): at rest, KS_LOAD with `key_len` and `key_in`; a length other than 16 takes the exception
`InvalidKeyLength` (R191, R193). -/
def execExpandKey (keyLen : Byte) (key : Block) (s : State) : Result :=
  s.acceptAtRest (s.ksLoad keyLen key)

/-- ENCRYPT_BLOCK (R164): at rest with `KEY_VALID == 1`, load the plaintext; not accepted otherwise (R161). -/
def execEncryptBlock (pt : Block) (s : State) : Result :=
  s.acceptAtRest (s.encryptAccept pt)

/-- RSVD3 (R175): no state change, in every phase; it does not set `ERR`. [entry 13] -/
def execRsvd3 (s : State) : Result := .next s

/-- RESET (R210): `PHASE <- IDLE`, `KEY_VALID <- 0`, `ERR <- 0`; the data registers hold no value afterwards. -/
def execReset (s : State) : Result := .next s.loseData.resetControl

end Sys2Proof.Machine
end

