-- ==== Sys2Proof/Machine/MicroOps.lean ====
section
/-! DEFINITION. The micro-operations (`30_encoding.md` rule R74): one word of the key expansion (`43_key_scheduler.md`
rule R147), and the three steps of an encryption (`44_cipher_top.md` rules R165 to R167). The encoding of a
micro-operation is `PHASE` itself, so the fetch makes sure of the phase and the meanings do not test it again.
[entry 18] -/

namespace Sys2Proof.Machine

/-- KS_WORD (R147), with `i = KI` read before the step, 4 <= i <= 43 (R25). [entry 11] -/
def execKsWord (s : State) : Result :=
  if 4 ≤ s.ki.toNat ∧ s.ki.toNat ≤ 43 then .next (s.ksWordWrite s.ki.toNat)
  else .fault (.keyIndexOutOfRange s.ki)

/-- ENC_INIT (R165): `ST <- ADDROUNDKEY(ST, RoundKey(0))`, `RND <- 1`, `PHASE <- ROUND`. -/
def execEncInit (s : State) : Result :=
  let read := s.readRoundKey 0#4
  .next (((read.2.setSt (addRoundKey s.st (loadState read.1))).setRnd 1#4).setPhase Phase.round.code)

/-- ENC_ROUND (R166), with `r = RND` read before the step: one full round with `RoundKey(r)`, `RND <- r + 1`, and
`PHASE <- FINAL` after round 9. [entry 12] -/
def execEncRound (s : State) : Result :=
  let read := s.readRoundKey s.rnd
  let rounded := (read.2.setSt (fullRound s.st read.1)).setRnd (s.rnd + 1#4)
  .next (if s.rnd = 9#4 then rounded.setPhase Phase.final.code else rounded)

/-- ENC_FINAL (R167): the final round with `RoundKey(10)`, `PHASE <- DONE`; `RND` is not written. -/
def execEncFinal (s : State) : Result :=
  let read := s.readRoundKey 10#4
  .next ((read.2.setSt (finalRound s.st read.1)).setPhase Phase.done.code)

end Sys2Proof.Machine
end

