-- ==== Sys2Proof/Machine/UnitOps.lean ====
section
/-! DEFINITION. The nine UNIT operations (`30_encoding.md` rule R75). Each drives the operands of one module and its
output port shows the result in this step; none touches `ST`, `RK`, `PHASE`, `RND`, `KI`, `KEY_VALID` or `ERR` (R33), none
sets a flag or raises anything (R190). [entry 4] -/

namespace Sys2Proof.Machine

/-- GFMUL (R100): `p = gf_mul(a, b)`. -/
def execGfmul (a b : Byte) (s : State) : Result :=
  .next (s.setUnit { s.unit with gfmulP := some (gfMul a b) })

/-- SBOX (R110): `y = S_BOX[x[7:4]][x[3:0]]`. -/
def execSbox (x : Byte) (s : State) : Result :=
  .next (s.setUnit { s.unit with sboxY := some (sboxByte x) })

/-- SUBBYTES (R120). -/
def execSubbytes (v : Block) (s : State) : Result :=
  .next (s.setUnit { s.unit with subbytesOut := some (storeState (subBytes (loadState v))) })

/-- SHIFTROWS (R121). -/
def execShiftrows (v : Block) (s : State) : Result :=
  .next (s.setUnit { s.unit with shiftrowsOut := some (storeState (shiftRows (loadState v))) })

/-- MIXCOLUMNS (R122). -/
def execMixcolumns (v : Block) (s : State) : Result :=
  .next (s.setUnit { s.unit with mixcolumnsOut := some (storeState (mixColumns (loadState v))) })

/-- ADDROUNDKEY (R123). -/
def execAddroundkey (v k : Block) (s : State) : Result :=
  .next (s.setUnit { s.unit with addroundkeyOut := some (storeState (addRoundKey (loadState v) (loadState k))) })

/-- ROTWORD (R140). -/
def execRotword (w : Word) (s : State) : Result :=
  .next (s.setUnit { s.unit with rotwordOut := some (rotWord w) })

/-- SUBWORD (R141). -/
def execSubword (w : Word) (s : State) : Result :=
  .next (s.setUnit { s.unit with subwordOut := some (subWord w) })

/-- RCONW (R142): `RCON[j] << 24` for j = 0..9; for j = 10..15 the output is unspecified (R78, U5), a free value.
[entry 7] -/
def execRconw (j : Nibble) (s : State) : Result :=
  if rconIndexLegal j then .next (s.setUnit { s.unit with rconwOut := some (rconWord j.toNat) })
  else .next ((s.draw 32).2.setUnit { s.unit with rconwOut := some (s.draw 32).1 })

end Sys2Proof.Machine
end

