-- ==== Sys2Proof/Machine/Dispatch.lean ====
section
/-! DEFINITION. The meaning of every operation, one arm per constructor. -/

namespace Sys2Proof.Machine

def exec (i : Instr) (s : State) : Host.Outcome State Fault Refusal :=
  match i with
  | .gfmul a b => Sys2Proof.Machine.execGfmul a b s
  | .sbox x => Sys2Proof.Machine.execSbox x s
  | .subbytes v => Sys2Proof.Machine.execSubbytes v s
  | .shiftrows v => Sys2Proof.Machine.execShiftrows v s
  | .mixcolumns v => Sys2Proof.Machine.execMixcolumns v s
  | .addroundkey v k => Sys2Proof.Machine.execAddroundkey v k s
  | .rotword w => Sys2Proof.Machine.execRotword w s
  | .subword w => Sys2Proof.Machine.execSubword w s
  | .rconw j => Sys2Proof.Machine.execRconw j s
  | .nop => Sys2Proof.Machine.execNop s
  | .expandKey n k => Sys2Proof.Machine.execExpandKey n k s
  | .encryptBlock p => Sys2Proof.Machine.execEncryptBlock p s
  | .rsvd3 => Sys2Proof.Machine.execRsvd3 s
  | .ksWord => Sys2Proof.Machine.execKsWord s
  | .encInit => Sys2Proof.Machine.execEncInit s
  | .encRound => Sys2Proof.Machine.execEncRound s
  | .encFinal => Sys2Proof.Machine.execEncFinal s
  | .reset => Sys2Proof.Machine.execReset s

end Sys2Proof.Machine
end

