-- ==== Sys2Proof/Machine/Fetch.lean ====
section
/-! DEFINITION. Which operation the next step performs. The block fetches no instructions (`10_state.md` rule R23):
the operation is chosen by `rst`, `PHASE` and `cmd` (`30_encoding.md` rule R70). The port values of the next step are
the head of `pending`. [entries 1, 2, 4, 17] -/

namespace Sys2Proof.Machine

/-- What the outside presents in one step. -/
inductive Presented where
  /-- The values of the top's input ports. -/
  | stimulus (w : StimulusWord)
  /-- Operands driven on a leaf module's input ports; the core does not step. -/
  | unit (u : UnitInput)
deriving DecidableEq, Repr

/-- The next thing presented and the lines left after it. A WAIT whose condition does not hold any more takes no step
(R80); one that still waits presents NOP and stays; an exhausted list is an idle host (R173). -/
def fetchLine (s : State) : List HostLine → Presented × List HostLine
  | [] => (.stimulus StimulusWord.idle, [])
  | .stimulus w :: rest => (.stimulus w, rest)
  | .unit u :: rest => (.unit u, rest)
  | .wait c :: rest =>
    if c.waiting s then (.stimulus StimulusWord.idle, .wait c :: rest) else fetchLine s rest

/-- What is presented in the next step. -/
def State.presented (s : State) : Presented := (fetchLine s s.pending).1

/-- The module outputs let go: what was driven in the step before is driven no more (R28, R31). [entry 4] -/
def State.releaseUnits (s : State) : State := s.setUnit UnitPorts.undriven

/-- The machine at the start of a step: the presented line taken from `pending`, no module driven yet; nothing else
changes. -/
def State.taken (s : State) : State := s.releaseUnits.setPending (fetchLine s s.pending).2

/-- The operation that presented bits select in a phase (R70, R171). -/
def decodePresented (phase : BitVec 3) : Presented → Except DecodeError Instr
  | .unit u => .ok (decodeUnit u)
  | .stimulus w => decodeTop phase w

/-- Put an encoding where the next step finds it: a unit input or a stimulus word at the head of `pending` (for a
command, the phase at rest); for a `PHASE` code the register `PHASE`, under an idle host. -/
def State.place (s : State) : Encoding → State
  | .unit u => s.setPending (.unit u :: s.pending)
  | .stimulus w =>
    if w.rst || s.atRest then s.setPending (.stimulus w :: s.pending)
    else (s.setPhase Phase.idle.code).setPending (.stimulus w :: s.pending)
  | .phase p => (s.setPhase p).setPending (.stimulus StimulusWord.idle :: s.pending)

/-- Put a word of the operation table where the next step finds it; a word that is no encoding changes nothing. -/
def State.placeTableWord (s : State) (nbits w : Nat) : State :=
  match tableEncoding nbits w with
  | some e => s.place e
  | none => s

/-- `ENCRYPT1 key=K, pt=P` (R80). -/
def encrypt1 (key pt : Block) : List HostLine :=
  [.stimulus (.ofFields false 1#2 16#8 key 0#128), .wait .keyValid,
   .stimulus (.ofFields false 2#2 0#8 0#128 pt), .wait .done]

end Sys2Proof.Machine
end

