-- ==== Sys2Proof/Machine/Step.lean ====
section
/-! DEFINITION. One step of the block (`44_cipher_top.md` rule R171): the presented inputs and `PHASE` select one
operation, and its meaning is applied. -/

namespace Sys2Proof.Machine

/-- One step (R171). -/
def step (s : State) : Host.Outcome State Fault Refusal :=
  match decodePresented s.phase s.presented with
  | .ok i => exec i s.taken
  | .error e => .fault (.undecodable e)

/-- The state in which the very next step performs the operation whose word of the operation table is `w`. -/
def State.withFetchWord (s : State) (nbits w : Nat) : State := s.placeTableWord nbits w

end Sys2Proof.Machine
end

