-- ==== Sys2Proof/Safety.lean ====
section
/-! DEFINITION. What counts as a good state and a good run, in the terms claims use: the invariants of `10_state.md`
rules R22 to R26, the measure of `70_reset_and_hazards.md` rule R222, the assertions of host programs (R80), and a test
for "answers a next state such that". -/

namespace Sys2Proof.Machine

/-- The words 4 .. n-1 of the schedule obey the recurrence `RK[i] = RK[i-4] ^ ks_temp(i, RK[i-1])` (R22, R144). -/
def ScheduleUpTo (rk : Vector Word 44) (n : Nat) : Prop :=
  ∀ i, 4 ≤ i → i < n → rkWord rk i = rkWord rk (i - 4) ^^^ ksTemp i (rkWord rk (i - 1))

/-- The invariants the spec states of the core's registers (R22 to R26, R148). -/
structure State.Inv (s : State) : Prop where
  /-- `PHASE` is one of its six values (R23). -/
  phaseLegal : (Phase.ofCode s.phase).isSome = true
  /-- `PHASE == KS` implies `4 <= KI <= 43` (R25). -/
  indexInKs : s.phase = Phase.ks.code → 4 ≤ s.ki.toNat ∧ s.ki.toNat ≤ 43
  /-- `PHASE == KS` implies `KEY_VALID == 0` and `ERR == 0` (R26). -/
  flagsInKs : s.phase = Phase.ks.code → s.keyValid = false ∧ s.err = false
  /-- `PHASE == KS` implies that words `RK[0..KI-1]` have been written for the current key (R25). -/
  wordsInKs : s.phase = Phase.ks.code → ScheduleUpTo s.rk s.ki.toNat
  /-- `KEY_VALID == 1` implies that `RK` is a whole schedule (R22, R26). -/
  wordsWhenValid : s.keyValid = true → ScheduleUpTo s.rk 44
  /-- `KI` is 44 after the last KS_WORD and stays 44 until the next accepted EXPAND_KEY (R25). -/
  indexWhenValid : s.keyValid = true → s.ki = 44#6
  /-- `PHASE == ROUND` implies `1 <= RND <= 9` (R24). -/
  roundInRound : s.phase = Phase.round.code → 1 ≤ s.rnd.toNat ∧ s.rnd.toNat ≤ 9
  /-- `PHASE` in FINAL, DONE implies `RND == 10` (R24). -/
  roundAtEnd : s.phase = Phase.final.code ∨ s.phase = Phase.done.code → s.rnd = 10#4
  /-- `PHASE` in INIT, ROUND, FINAL, DONE implies `KEY_VALID == 1` (R26). -/
  validInEncryption :
    s.phase = Phase.init.code ∨ s.phase = Phase.round.code ∨ s.phase = Phase.final.code ∨ s.phase = Phase.done.code →
      s.keyValid = true
  /-- `ERR == 1` implies `KEY_VALID == 0` and `PHASE == IDLE` (R26). -/
  afterError : s.err = true → s.keyValid = false ∧ s.phase = Phase.idle.code

/-- How many core steps a busy phase still takes (R147, R166, R222). -/
def State.remaining (s : State) : Nat :=
  match Phase.ofCode s.phase with
  | some .ks => 44 - s.ki.toNat
  | some .init => 11
  | some .round => 11 - s.rnd.toNat
  | some .final => 1
  | some .idle => 0
  | some .done => 0
  | none => 0

/-- The seven elements of R20 are the same in both states. -/
def State.sameCore (s t : State) : Prop := t.toCoreState = s.toCoreState

/-- What no operation of the core writes is the same in both states: the module outputs and the pending lines. -/
def State.sameSurroundings (s t : State) : Prop := t.unit = s.unit ∧ t.pending = s.pending

/-- The core makes a step under the inputs `w`: they are what the outside presents next. -/
def State.presents (s : State) (w : StimulusWord) : Prop := s.presented = .stimulus w

/-- The part of the state that decides the course of control (R170), with the counter of free values. -/
def State.control (s : State) : BitVec 3 × BitVec 4 × BitVec 6 × Bool × Bool × Nat :=
  (s.phase, s.rnd, s.ki, s.keyValid, s.err, s.draws)

/-- An assertion `EXPECT <port> == <value>` of a host program (R80): not a step, a statement about the outputs.
[entry 17] -/
inductive Expect where
  | busy (v : Bool)
  | keyValid (v : Bool)
  | done (v : Bool)
  | err (v : Bool)
  | ctOut (v : Block)
deriving DecidableEq, Repr

/-- The assertion holds of the outputs. `ct_out` may be read only while `done == 1` (R174). -/
def Expect.holds (e : Expect) (o : Outputs) : Bool :=
  match e with
  | .busy v => decide (o.busy = v)
  | .keyValid v => decide (o.keyValid = v)
  | .done v => decide (o.done = v)
  | .err v => decide (o.err = v)
  | .ctOut v => decide (o.ctOut = some v)

/-- A line that takes no further step: a WAIT that waits no more (R80). -/
def HostLine.passed (s : State) : HostLine → Bool
  | .wait c => !c.waiting s
  | .stimulus _ => false
  | .unit _ => false

/-- A run has ended (R174): the last line has been issued and `busy == 0`. -/
def State.runEnded (s : State) : Bool := s.pending.all (HostLine.passed s) && !s.busy

/-- The operation answers a next state of which `p` is true. -/
def completesWith (r : Result) (p : State → Bool) : Bool :=
  match r with
  | .next t => p t
  | .fault _ => false
  | .refused _ => false

end Sys2Proof.Machine
end

