-- ==== Sys2Proof/Certificates/Slice0/Obligations.lean ====
section
/-! DEFINITION. The statements for the provers. Each docstring names the rule of spec/ it formalises. -/

open Sys2Proof Sys2Proof.Machine

/-! ## Decoding and stepping -/

/-- R171 and R70: a step performs the operation that the presented inputs and `PHASE` select, on the state with the
presented line taken. Where the decoder selects none, which is the case for `PHASE` 6 and 7 with `rst == 0` only, the
step stops: that is the MODEL's stop, log entry 10 (R78: such a state has no step). -/
def Obligations.StepPerformsDecodedOperation : Prop :=
  (∀ (s : State) (i : Instr), decodePresented s.phase s.presented = .ok i → step s = exec i s.taken) ∧
    (∀ (s : State) (e : DecodeError), decodePresented s.phase s.presented = .error e →
      step s = .fault (.undecodable e))

/-- The step function as R171 writes it out, row by row, for a step under the inputs `w`. -/
def Obligations.StepIsTheTableOfR171 : Prop :=
  ∀ (s : State) (w : StimulusWord), s.presents w →
    (w.rst = true → step s = exec .reset s.taken) ∧
    (w.rst = false → s.phase = Phase.ks.code → step s = exec .ksWord s.taken) ∧
    (w.rst = false → s.phase = Phase.init.code → step s = exec .encInit s.taken) ∧
    (w.rst = false → s.phase = Phase.round.code → step s = exec .encRound s.taken) ∧
    (w.rst = false → s.phase = Phase.final.code → step s = exec .encFinal s.taken) ∧
    (w.rst = false → s.phase = Phase.idle.code ∨ s.phase = Phase.done.code →
      (w.cmd = 0#2 → step s = exec .nop s.taken) ∧
      (w.cmd = 1#2 → step s = exec (.expandKey w.keyLen w.keyIn) s.taken) ∧
      (w.cmd = 2#2 → step s = exec (.encryptBlock w.ptIn) s.taken) ∧
      (w.cmd = 3#2 → step s = exec .rsvd3 s.taken))

/-- What the outside presents next (MODEL's convention, log entries 1, 2, 4 and 17; the WAIT lines are R80): the head
of the pending lines, taken from them; a WAIT that still waits presents NOP and stays; one that waits no more is
passed over; with nothing pending the host is idle. Taking a line lets the module outputs of the step before go
(R28, R31) and changes nothing else. -/
def Obligations.FetchTakesTheNextLine : Prop :=
  ∀ (s : State) (rest : List HostLine),
    (s.pending = [] → s.presented = .stimulus StimulusWord.idle ∧ s.taken = s.releaseUnits) ∧
    (∀ w, s.pending = .stimulus w :: rest → s.presented = .stimulus w ∧ s.taken = s.releaseUnits.setPending rest) ∧
    (∀ u, s.pending = .unit u :: rest → s.presented = .unit u ∧ s.taken = s.releaseUnits.setPending rest) ∧
    (∀ c, s.pending = .wait c :: rest → c.waiting s = true →
      s.presented = .stimulus StimulusWord.idle ∧ s.taken = s.releaseUnits) ∧
    (∀ c, s.pending = .wait c :: rest → c.waiting s = false →
      s.presented = (s.setPending rest).presented ∧ s.taken = (s.setPending rest).taken)

/-- R72 to R75 on a few words written out: the decoder reads them as the operations they stand for. The first ten go
through `decodeTableWord`, whose reading of a bare word is the MODEL's choice, log entry 15: 16 bits are `ctl` with the
data ports zero and 8 bits are `PHASE`, although modules of R75 have these widths too. -/
def Obligations.SampleWordsDecode : Prop :=
  decodeTableWord 16 0x000 = some .nop ∧
  decodeTableWord 16 0x110 = some (.expandKey 16#8 0#128) ∧
  decodeTableWord 16 0x118 = some (.expandKey 24#8 0#128) ∧
  decodeTableWord 16 0x200 = some (.encryptBlock 0#128) ∧
  decodeTableWord 16 0x300 = some .rsvd3 ∧
  decodeTableWord 16 0x400 = some .reset ∧
  decodeTableWord 8 1 = some .ksWord ∧
  decodeTableWord 8 2 = some .encInit ∧
  decodeTableWord 8 3 = some .encRound ∧
  decodeTableWord 8 4 = some .encFinal ∧
  decode (.unit (.galoisFieldMult 0x02d4#16)) = .ok (.gfmul 0x02#8 0xd4#8) ∧
  decode (.unit (.aes128Sbox 0x19#8)) = .ok (.sbox 0x19#8) ∧
  decode (.unit (.rconW 0#4)) = .ok (.rconw 0#4)

/-- Every operation, with every operand at every value, is read back from its encoding (R70 to R75). -/
def Obligations.DecodeOfEncodeIsTheOperation : Prop := ∀ i : Instr, decode (encode i) = .ok i

/-- R73: the match and mask of each row on `ctl`, and the operands each row takes. -/
def Obligations.CommandRowsByMatchAndMask : Prop :=
  ∀ w : StimulusWord,
    (w.ctl &&& 0x400#11 = 0x400#11 → decodeStimulus w = .reset) ∧
    (w.ctl &&& 0x700#11 = 0x000#11 → decodeStimulus w = .nop) ∧
    (w.ctl &&& 0x700#11 = 0x100#11 → decodeStimulus w = .expandKey (w.ctl.setWidth 8) w.keyIn) ∧
    (w.ctl &&& 0x700#11 = 0x200#11 → decodeStimulus w = .encryptBlock w.ptIn) ∧
    (w.ctl &&& 0x700#11 = 0x300#11 → decodeStimulus w = .rsvd3)

/-- R73: the 267-bit stimulus vector and its three parts determine each other, both ways. -/
def Obligations.StimulusVectorRoundTrip : Prop :=
  (∀ w : StimulusWord, StimulusWord.ofBits w.toBits = w) ∧
    (∀ v : BitVec 267, (StimulusWord.ofBits v).toBits = v)

/-- R70: in the whole block an encoded command is read in a phase at rest and only there, an encoded
micro-operation under every input with `rst == 0`, and RESET in every phase. -/
def Obligations.BlockDecoderReadsEncodings : Prop :=
  ∀ (i : Instr) (p : Phase) (w : StimulusWord),
    (encode i = .stimulus w → w.rst = true → decodeTop p.code w = .ok i) ∧
    (encode i = .stimulus w → w.rst = false → (decodeTop p.code w = .ok i ↔ p.busy = false)) ∧
    (encode i = .phase p.code → w.rst = false → decodeTop p.code w = .ok i)

/-- R78, R74 (U2): `PHASE` 6 and 7 have no step; the step stops by name under every input but `rst == 1`. -/
def Obligations.UnreachablePhaseHasNoStep : Prop :=
  ∀ (s : State) (w : StimulusWord), s.presents w → w.rst = false → s.phase = 6#3 ∨ s.phase = 7#3 →
    step s = .fault (.undecodable (.unreachablePhase s.phase))

/-! ## The field, the tables -/

/-- A byte as a polynomial over GF(2): bit `n` is the coefficient of `x^n` (R100, R102). -/
noncomputable def bytePolynomial (a : Byte) : Polynomial (ZMod 2) :=
  ∑ n ∈ Finset.range 8, if a.getLsbD n then Polynomial.X ^ n else 0

/-- `m(x) = x^8 + x^4 + x^3 + x + 1` (R102). -/
noncomputable def fieldPolynomial : Polynomial (ZMod 2) :=
  Polynomial.X ^ 8 + Polynomial.X ^ 4 + Polynomial.X ^ 3 + Polynomial.X + 1

/-- R102: `gf_mul(a, b)` is the byte of `A(x)·B(x) mod m(x)`. -/
def Obligations.GfMulIsPolynomialProduct : Prop :=
  ∀ a b : Byte, bytePolynomial (gfMul a b) = (bytePolynomial a * bytePolynomial b) %ₘ fieldPolynomial

/-- R103: commutative, with identity 01 and zero 00, distributive over `^`, associative; for `a != 0` there is exactly
one `b` with `gf_mul(a, b) = 0x01`. -/
def Obligations.GfMulLaws : Prop :=
  (∀ a b c : Byte,
    gfMul a b = gfMul b a ∧ gfMul a 0x01#8 = a ∧ gfMul a 0x00#8 = 0x00#8 ∧
    gfMul a (b ^^^ c) = gfMul a b ^^^ gfMul a c ∧ gfMul a (gfMul b c) = gfMul (gfMul a b) c) ∧
  (∀ a : Byte, a ≠ 0#8 → ∃ b : Byte, gfMul a b = 0x01#8 ∧ ∀ c : Byte, gfMul a c = 0x01#8 → c = b)

/-- R104: the two multipliers MixColumns needs, with the constant on either input. -/
def Obligations.MixColumnsMultipliers : Prop :=
  ∀ x : Byte,
    gfMul 0x01#8 x = x ∧
    gfMul 0x02#8 x = (x <<< 1) ^^^ (if x.getLsbD 7 then 0x1B#8 else 0x00#8) ∧
    gfMul 0x03#8 x = gfMul 0x02#8 x ^^^ x ∧
    gfMul x 0x01#8 = gfMul 0x01#8 x ∧ gfMul x 0x02#8 = gfMul 0x02#8 x ∧ gfMul x 0x03#8 = gfMul 0x03#8 x

/-- R51: a 16 by 16 table; the flat index of `S_BOX[x[7:4]][x[3:0]]` is `16*hi + lo`, which is `x` itself, so it and
`SBOX[x]` are the same element; every byte is a valid index. -/
def Obligations.SboxRowColumnIsFlatIndex : Prop :=
  sboxTable.length = 16 ∧ (∀ row ∈ sboxTable, row.length = 16) ∧ sboxTable.flatten.length = 256 ∧
    ∀ x : Byte, 16 * (x.extractLsb' 4 4).toNat + (x.extractLsb' 0 4).toNat = x.toNat ∧
      (sboxTable[(x.extractLsb' 4 4).toNat]?).bind (fun row => row[(x.extractLsb' 0 4).toNat]?) = some (sboxByte x) ∧
      sboxTable.flatten[x.toNat]? = some (sboxByte x)

/-- R114: the S-Box is a bijection over the 256 byte values; so SUBBYTES and SUBWORD are bijections on blocks and
words. -/
def Obligations.SboxIsBijective : Prop :=
  Function.Bijective sboxByte ∧ Function.Bijective subWord ∧
    Function.Bijective (fun p : Block => storeState (subBytes (loadState p)))

/-- R113: the S-Box from the inverse in GF(2^8) and the affine map. -/
def Obligations.SboxGeneratingRule : Prop :=
  ∀ x v : Byte, (x = 0#8 → v = 0#8) → (x ≠ 0#8 → gfMul x v = 0x01#8) →
    sboxByte x =
      v ^^^ v.rotateLeft 1 ^^^ v.rotateLeft 2 ^^^ v.rotateLeft 3 ^^^ v.rotateLeft 4 ^^^ 0x63#8

/-- R142, R116: the ten round-constant words, and the generating rule of the table. -/
def Obligations.RoundConstantWords : Prop :=
  (List.range 10).map rconWord =
    [0x01000000#32, 0x02000000#32, 0x04000000#32, 0x08000000#32, 0x10000000#32, 0x20000000#32, 0x40000000#32,
      0x80000000#32, 0x1b000000#32, 0x36000000#32] ∧
  rconTable.length = 10 ∧ rconTable[0]? = some 0x01#8 ∧
  ∀ j : Nat, j < 9 → rconTable[j + 1]? = (rconTable[j]?).map (gfMul 0x02#8)

/-! ## Layouts and transforms -/

/-- R56: `ST[r][c] = block[r + 4c]`, and `LoadState` and `StoreState` are inverse to each other. -/
def Obligations.LoadStoreLayout : Prop :=
  (∀ (p : Block) (r c : Nat), r < 4 → c < 4 → cell (loadState p) r c = blockByte p (r + 4 * c)) ∧
  (∀ (m : StateMatrix) (r c : Nat), r < 4 → c < 4 → blockByte (storeState m) (r + 4 * c) = cell m r c) ∧
  (∀ m : StateMatrix, loadState (storeState m) = m) ∧ (∀ p : Block, storeState (loadState p) = p)

/-- R58: byte `b = r + 4c` of `RoundKey(k)` is byte `r` of word `RK[4k + c]`, namely `RK[4k+c][31-8r : 24-8r]`; word c
of a round key is column c of the round-key matrix; as a port value the round key is the four words in order. -/
def Obligations.RoundKeyLayout : Prop :=
  ∀ (rk : Vector Word 44) (k : Nat), k ≤ 10 →
    (∀ r c, r < 4 → c < 4 →
      blockByte (roundKey rk k) (r + 4 * c) = (rkWord rk (4 * k + c)).extractLsb' (24 - 8 * r) 8 ∧
      cell (loadState (roundKey rk k)) r c = (rkWord rk (4 * k + c)).extractLsb' (24 - 8 * r) 8) ∧
    (∀ c, c < 4 → columnWord (matrixColumn (loadState (roundKey rk k)) c) = rkWord rk (4 * k + c)) ∧
    (∀ c, c < 4 → (roundKey rk k).extractLsb' (96 - 32 * c) 32 = rkWord rk (4 * k + c))

/-- R120: SubBytes cell by cell; the all-zero State maps to sixteen bytes 63, the State of sixteen 52 to all zero; it is
not an involution. -/
def Obligations.SubBytesByCells : Prop :=
  (∀ (m : StateMatrix) (r c : Nat), r < 4 → c < 4 → cell (subBytes m) r c = sboxByte (cell m r c)) ∧
    (∀ r c, cell (subBytes StateMatrix.zero) r c = 0x63#8) ∧
    (∀ m, (∀ r c, cell m r c = 0x52#8) → subBytes m = StateMatrix.zero) ∧
    subBytes (subBytes StateMatrix.zero) ≠ StateMatrix.zero

/-- The input byte that each output byte of SHIFTROWS takes (R121). -/
def shiftSource : List Nat := [0, 5, 10, 15, 4, 9, 14, 3, 8, 13, 2, 7, 12, 1, 6, 11]

/-- The place to which each input byte of SHIFTROWS goes (R121). -/
def shiftTarget : List Nat := [0, 13, 10, 7, 4, 1, 14, 11, 8, 5, 2, 15, 12, 9, 6, 3]

/-- R121: `t[r][c] = s[r][(c + r) mod 4]`; the byte at column c of row r ends up at column `(c - r) mod 4`; on the block
output byte `b` takes input byte `P[b]`, and input byte `b` goes to its place in the inverse table; four equal columns are unchanged; four applications are the identity; it
commutes with SubBytes. -/
def Obligations.ShiftRowsByCells : Prop :=
  (∀ (m : StateMatrix) (r c : Nat), r < 4 → c < 4 → cell (shiftRows m) r c = cell m r ((c + r) % 4)) ∧
  (∀ (m : StateMatrix) (r c : Nat), r < 4 → c < 4 → cell (shiftRows m) r ((c + 4 - r) % 4) = cell m r c) ∧
  (∀ (p : Block) (b : Nat), b < 16 →
    blockByte (storeState (shiftRows (loadState p))) b = blockByte p (shiftSource.getD b 0) ∧
    blockByte (storeState (shiftRows (loadState p))) (shiftTarget.getD b 0) = blockByte p b) ∧
  (∀ k : Column, shiftRows ⟨k, k, k, k⟩ = ⟨k, k, k, k⟩) ∧
  (∀ m : StateMatrix, shiftRows (shiftRows (shiftRows (shiftRows m))) = m) ∧
  (∀ m : StateMatrix, shiftRows (subBytes m) = subBytes (shiftRows m))

/-- R124: AddRoundKey is an involution; ShiftRows is a permutation of bytes; SubBytes is bijective per byte. -/
def Obligations.RoundTransformProperties : Prop :=
  (∀ m k : StateMatrix, addRoundKey (addRoundKey m k) k = m) ∧
  (∀ p : Block, ((List.range 16).map (blockByte (storeState (shiftRows (loadState p))))).Perm
    ((List.range 16).map (blockByte p))) ∧
  (∀ m m' : StateMatrix, ∀ r c, r < 4 → c < 4 →
    (cell (subBytes m) r c = cell (subBytes m') r c ↔ cell m r c = cell m' r c))

/-- The fixed matrix of MixColumns, row by row (R122). -/
def mixMatrix : List (List Byte) :=
  [[0x02#8, 0x03#8, 0x01#8, 0x01#8], [0x01#8, 0x02#8, 0x03#8, 0x01#8],
   [0x01#8, 0x01#8, 0x02#8, 0x03#8], [0x03#8, 0x01#8, 0x01#8, 0x02#8]]

/-- The entry in row `r`, column `k` of the fixed matrix. -/
def mixEntry (r k : Nat) : Byte := (mixMatrix.getD r []).getD k 0#8

/-- R122: `t[r][c] = XOR over k = 0..3 of gf_mul(M[r][k], s[k][c])`; a column of four equal bytes is unchanged; the
zero column maps to zero; linear over `^`; unit columns give the matrix columns. -/
def Obligations.MixColumnsIsTheMatrix : Prop :=
  (∀ (m : StateMatrix) (r c : Nat), r < 4 → c < 4 →
    cell (mixColumns m) r c =
      gfMul (mixEntry r 0) (cell m 0 c) ^^^ gfMul (mixEntry r 1) (cell m 1 c) ^^^
        gfMul (mixEntry r 2) (cell m 2 c) ^^^ gfMul (mixEntry r 3) (cell m 3 c)) ∧
  (∀ b : Byte, mixColumn ⟨b, b, b, b⟩ = ⟨b, b, b, b⟩) ∧
  (∀ m u : StateMatrix, mixColumns (addRoundKey m u) = addRoundKey (mixColumns m) (mixColumns u)) ∧
  (∀ r, r < 4 → columnByte (mixColumn ⟨0x01#8, 0#8, 0#8, 0#8⟩) r = mixEntry r 0 ∧
    columnByte (mixColumn ⟨0#8, 0x01#8, 0#8, 0#8⟩) r = mixEntry r 1 ∧
    columnByte (mixColumn ⟨0#8, 0#8, 0x01#8, 0#8⟩) r = mixEntry r 2 ∧
    columnByte (mixColumn ⟨0#8, 0#8, 0#8, 0x01#8⟩) r = mixEntry r 3)

/-- R123: `t[r][c] = s[r][c] ^ k[r][c]`, on the 128-bit vectors `s_out = s_in ^ rk_in`, in schedule words
`t[r][c] = s[r][c] ^ RK[4k + c][31-8r : 24-8r]`; its own inverse; `ADDROUNDKEY(s, 0) = s`, `ADDROUNDKEY(s, s) = 0`;
symmetric. -/
def Obligations.AddRoundKeyIsXor : Prop :=
  (∀ (m k : StateMatrix) (r c : Nat), r < 4 → c < 4 → cell (addRoundKey m k) r c = cell m r c ^^^ cell k r c) ∧
  (∀ s k : Block, storeState (addRoundKey (loadState s) (loadState k)) = s ^^^ k) ∧
  (∀ (m : StateMatrix) (rk : Vector Word 44) (k r c : Nat), k ≤ 10 → r < 4 → c < 4 →
    cell (addRoundKey m (loadState (roundKey rk k))) r c =
      cell m r c ^^^ (rkWord rk (4 * k + c)).extractLsb' (24 - 8 * r) 8) ∧
  (∀ m k : StateMatrix, addRoundKey (addRoundKey m k) k = m ∧ addRoundKey m k = addRoundKey k m) ∧
  (∀ m : StateMatrix, addRoundKey m (loadState 0#128) = m ∧ addRoundKey m m = StateMatrix.zero)

/-- R140, R141: RotWord is `rotl32(w, 8)`, bytes `{b0, b1, b2, b3}` become `{b1, b2, b3, b0}`, four equal bytes are
unchanged, four applications are the identity; SubWord is the S-Box on each byte, zero gives 63636363; the two
commute. -/
def Obligations.WordOperationsOnBytes : Prop :=
  (∀ w : Word, rotWord w = (w <<< 8) ||| (w >>> 24)) ∧
  (∀ b0 b1 b2 b3 : Byte, rotWord (wordOfBytes b0 b1 b2 b3) = wordOfBytes b1 b2 b3 b0) ∧
  (∀ b : Byte, rotWord (wordOfBytes b b b b) = wordOfBytes b b b b) ∧
  (∀ w : Word, rotWord (rotWord (rotWord (rotWord w))) = w) ∧
  (∀ b0 b1 b2 b3 : Byte, subWord (wordOfBytes b0 b1 b2 b3) =
    wordOfBytes (sboxByte b0) (sboxByte b1) (sboxByte b2) (sboxByte b3)) ∧
  subWord 0#32 = 0x63636363#32 ∧
  (∀ w : Word, subWord (rotWord w) = rotWord (subWord w))

/-- R144: the recurrence of `expand_key`: 44 words, the key's words first, then `w[i] = w[i-4] ^ ks_temp(i, w[i-1])`;
as a 128-bit value the first four words are the key. -/
def Obligations.ExpandKeyRecurrence : Prop :=
  ∀ key : Block, (expandKey key).length = 44 ∧
    (∀ j, j < 4 → (expandKey key)[j]? = some (blockWord key j)) ∧
    (∀ i, 4 ≤ i → i < 44 →
      (expandKey key)[i]? =
        some ((expandKey key).getD (i - 4) 0#32 ^^^ ksTemp i ((expandKey key).getD (i - 1) 0#32))) ∧
    blockOfWords ((expandKey key).getD 0 0#32) ((expandKey key).getD 1 0#32) ((expandKey key).getD 2 0#32)
      ((expandKey key).getD 3 0#32) = key

/-! ## The unit operations -/

/-- R100, R110: GFMUL and SBOX complete and their output ports show the product and the table's entry. -/
def Obligations.ByteUnitsComplete : Prop :=
  ∀ (a b x : Byte) (s : State),
    (∃ t, exec (.gfmul a b) s = .next t ∧ t.unit.gfmulP = some (gfMul a b)) ∧
    (∃ t, exec (.sbox x) s = .next t ∧ ∃ y, t.unit.sboxY = some y ∧ sboxTable.flatten[x.toNat]? = some y)

/-- R120 to R123: the four transform modules complete, with each output byte in the terms of the input bytes. -/
def Obligations.TransformUnitsComplete : Prop :=
  ∀ (v k : Block) (s : State),
    (∃ t out, exec (.subbytes v) s = .next t ∧ t.unit.subbytesOut = some out ∧
      ∀ b, b < 16 → blockByte out b = sboxByte (blockByte v b)) ∧
    (∃ t out, exec (.shiftrows v) s = .next t ∧ t.unit.shiftrowsOut = some out ∧
      ∀ r c, r < 4 → c < 4 → blockByte out (r + 4 * c) = blockByte v (r + 4 * ((c + r) % 4))) ∧
    (∃ t out, exec (.mixcolumns v) s = .next t ∧ t.unit.mixcolumnsOut = some out ∧
      ∀ r c, r < 4 → c < 4 → blockByte out (r + 4 * c) =
        gfMul (mixEntry r 0) (blockByte v (4 * c)) ^^^ gfMul (mixEntry r 1) (blockByte v (1 + 4 * c)) ^^^
          gfMul (mixEntry r 2) (blockByte v (2 + 4 * c)) ^^^ gfMul (mixEntry r 3) (blockByte v (3 + 4 * c))) ∧
    (∃ t, exec (.addroundkey v k) s = .next t ∧ t.unit.addroundkeyOut = some (v ^^^ k))

/-- R140 to R142: the three word units complete: `rotl32(w, 8)`; the S-Box on byte n of the word; the RCON word of a
legal index. -/
def Obligations.WordUnitsComplete : Prop :=
  ∀ (w : Word) (j : Nibble) (s : State),
    (∃ t, exec (.rotword w) s = .next t ∧ t.unit.rotwordOut = some ((w <<< 8) ||| (w >>> 24))) ∧
    (∃ t out, exec (.subword w) s = .next t ∧ t.unit.subwordOut = some out ∧
      ∀ n, n < 4 → wordByte out n = sboxByte (wordByte w n)) ∧
    (j.toNat ≤ 9 → ∃ t out, exec (.rconw j) s = .next t ∧ t.unit.rconwOut = some out ∧
      out.extractLsb' 0 24 = 0#24 ∧ rconTable[j.toNat]? = some (out.extractLsb' 24 8))

/-- R78 (U5; the free value is the MODEL's, log entry 7): RCONW of an index 10..15 completes; its output has a value that is open, so
nothing more is said of it, and everything else but the counter of free values stays. -/
def Obligations.RconwOutsideTableCompletes : Prop :=
  ∀ (j : Nibble) (s : State), 10 ≤ j.toNat →
    ∃ t, exec (.rconw j) s = .next t ∧ s.sameCore t ∧ t.pending = s.pending ∧
      t.unit.rconwOut ≠ none ∧ t.unit = { s.unit with rconwOut := t.unit.rconwOut } ∧ t.draws = s.draws + 1

/-- R33: what the unit operations leave unchanged: the seven elements of R20, and every other module's output. -/
def Obligations.UnitOperationsFrame : Prop :=
  ∀ s t : State,
    (∀ a b, exec (.gfmul a b) s = .next t → t = s.setUnit { s.unit with gfmulP := t.unit.gfmulP }) ∧
    (∀ x, exec (.sbox x) s = .next t → t = s.setUnit { s.unit with sboxY := t.unit.sboxY }) ∧
    (∀ v, exec (.subbytes v) s = .next t → t = s.setUnit { s.unit with subbytesOut := t.unit.subbytesOut }) ∧
    (∀ v, exec (.shiftrows v) s = .next t → t = s.setUnit { s.unit with shiftrowsOut := t.unit.shiftrowsOut }) ∧
    (∀ v, exec (.mixcolumns v) s = .next t → t = s.setUnit { s.unit with mixcolumnsOut := t.unit.mixcolumnsOut }) ∧
    (∀ v k, exec (.addroundkey v k) s = .next t →
      t = s.setUnit { s.unit with addroundkeyOut := t.unit.addroundkeyOut }) ∧
    (∀ w, exec (.rotword w) s = .next t → t = s.setUnit { s.unit with rotwordOut := t.unit.rotwordOut }) ∧
    (∀ w, exec (.subword w) s = .next t → t = s.setUnit { s.unit with subwordOut := t.unit.subwordOut }) ∧
    (∀ j, exec (.rconw j) s = .next t → s.sameCore t ∧ t.pending = s.pending ∧
      t.unit = { s.unit with rconwOut := t.unit.rconwOut } ∧ (j.toNat ≤ 9 → t.draws = s.draws))

/-! ## The host commands and the reset pin -/

/-- R162, R175: NOP and the reserved command complete with no state change, in every phase. -/
def Obligations.NopAndReservedChangeNothing : Prop :=
  ∀ s : State, exec .nop s = .next s ∧ exec .rsvd3 s = .next s

/-- R146 (R163): an EXPAND_KEY with `key_len == 16` at rest loads the key's four words, starts the expansion, clears
both flags; `ST` and `RND` are not touched, the other words of `RK` stay. -/
def Obligations.ExpandKeyLoadsTheKey : Prop :=
  ∀ (key : Block) (s : State), s.phase = Phase.idle.code ∨ s.phase = Phase.done.code →
    ∃ t, exec (.expandKey 16#8 key) s = .next t ∧
      rkWord t.rk 0 = key.extractLsb' 96 32 ∧ rkWord t.rk 1 = key.extractLsb' 64 32 ∧
      rkWord t.rk 2 = key.extractLsb' 32 32 ∧ rkWord t.rk 3 = key.extractLsb' 0 32 ∧
      t.ki = 4#6 ∧ t.keyValid = false ∧ t.err = false ∧ t.phase = Phase.ks.code ∧
      t.st = s.st ∧ t.rnd = s.rnd ∧ (∀ j, 4 ≤ j → j < 44 → rkWord t.rk j = rkWord s.rk j) ∧
      s.sameSurroundings t ∧ t.draws = s.draws

/-- R191, R193, R190: an EXPAND_KEY with any other length at rest takes the exception `InvalidKeyLength`: `ERR` 1 (code
1), `KEY_VALID` 0, `PHASE` IDLE; `RK`, `KI`, `ST`, `RND` are not written; `key_in` plays no part; an ENCRYPT_BLOCK is
not accepted then, and `done` has fallen. -/
def Obligations.InvalidKeyLengthIsTaken : Prop :=
  ∀ (n : Byte) (key : Block) (s : State), n ≠ 16#8 → s.phase = Phase.idle.code ∨ s.phase = Phase.done.code →
    ∃ t, exec (.expandKey n key) s = .next t ∧ t.err = true ∧ t.exceptionCode = 1 ∧ t.keyValid = false ∧
      t.phase = Phase.idle.code ∧ t.busy = false ∧ t.done = false ∧ t.rk = s.rk ∧ t.ki = s.ki ∧ t.st = s.st ∧
      t.rnd = s.rnd ∧ s.sameSurroundings t ∧ t.draws = s.draws ∧ (∀ pt, exec (.encryptBlock pt) t = .next t)

/-- R164: an ENCRYPT_BLOCK at rest with `KEY_VALID == 1` loads `ST[r][c]` with byte `r + 4c` of `pt_in` and goes to
INIT; `RK`, `KEY_VALID`, `ERR` are not written. -/
def Obligations.EncryptBlockLoadsThePlaintext : Prop :=
  ∀ (pt : Block) (s : State), s.phase = Phase.idle.code ∨ s.phase = Phase.done.code → s.keyValid = true →
    ∃ t, exec (.encryptBlock pt) s = .next t ∧
      (∀ r c, r < 4 → c < 4 → cell t.st r c = blockByte pt (r + 4 * c)) ∧ t.phase = Phase.init.code ∧
      t.rk = s.rk ∧ t.keyValid = s.keyValid ∧ t.err = s.err ∧ t.rnd = s.rnd ∧ t.ki = s.ki ∧
      s.sameSurroundings t ∧ t.draws = s.draws

/-- R161: a command that is not accepted leaves every state element as it was: ENCRYPT_BLOCK at rest with
`KEY_VALID == 0`, and either command while busy (there the step performs the micro-operation instead, R171; what
`exec` itself answers is the MODEL's convention, log entry 18). -/
def Obligations.UnacceptedCommandsChangeNothing : Prop :=
  (∀ (pt : Block) (s : State), s.phase = Phase.idle.code ∨ s.phase = Phase.done.code → s.keyValid = false →
    exec (.encryptBlock pt) s = .next s) ∧
  (∀ (n : Byte) (key pt : Block) (s : State), s.busy = true →
    exec (.expandKey n key) s = .next s ∧ exec (.encryptBlock pt) s = .next s)

/-- R210, R211: RESET leaves `PHASE` IDLE, `KEY_VALID` 0, `ERR` 0, and the outputs `busy`, `key_valid`, `done`, `err` 0;
module outputs and pending lines stay. Nothing is said of `ST`, `RK`, `RND`, `KI`: they hold no value. -/
def Obligations.ResetClearsControl : Prop :=
  ∀ s : State, ∃ t, exec .reset s = .next t ∧ t.phase = Phase.idle.code ∧ t.keyValid = false ∧ t.err = false ∧
    t.busy = false ∧ t.done = false ∧ s.sameSurroundings t

/-- R194: `rst == 1` wins over everything in its step, in every phase and under every command, a failing EXPAND_KEY
included: the step is RESET and `ERR` ends 0. No module is driven in it. -/
def Obligations.ResetHasPriority : Prop :=
  ∀ (s : State) (w : StimulusWord), s.presents w → w.rst = true →
    ∃ t, step s = .next t ∧ t.phase = Phase.idle.code ∧ t.keyValid = false ∧ t.err = false ∧
      t.unit = UnitPorts.undriven

/-! ## The micro-operations -/

/-- R147, R143: one KS_WORD step with `i = KI`, 4 <= i <= 43: the word written, the index, the flag and the phase in
the last step, and everything that stays. -/
def Obligations.KsWordWritesOneWord : Prop :=
  ∀ s : State, 4 ≤ s.ki.toNat → s.ki.toNat ≤ 43 →
    ∃ t, exec .ksWord s = .next t ∧
      (s.ki.toNat % 4 = 0 → rkWord t.rk s.ki.toNat = rkWord s.rk (s.ki.toNat - 4) ^^^
        (subWord (rotWord (rkWord s.rk (s.ki.toNat - 1))) ^^^ rconWord (s.ki.toNat / 4 - 1))) ∧
      (s.ki.toNat % 4 ≠ 0 → rkWord t.rk s.ki.toNat =
        rkWord s.rk (s.ki.toNat - 4) ^^^ rkWord s.rk (s.ki.toNat - 1)) ∧
      t.ki.toNat = s.ki.toNat + 1 ∧
      (s.ki = 43#6 → t.keyValid = true ∧ t.phase = Phase.idle.code) ∧
      (s.ki ≠ 43#6 → t.keyValid = s.keyValid ∧ t.phase = s.phase) ∧
      (∀ j, j < 44 → j ≠ s.ki.toNat → rkWord t.rk j = rkWord s.rk j) ∧
      t.st = s.st ∧ t.rnd = s.rnd ∧ t.err = s.err ∧ s.sameSurroundings t ∧ t.draws = s.draws

/-- The MODEL's stop (log entry 11): KS_WORD with `KI` outside 4..43 would form an index outside `RK[0..43]`. -/
def Obligations.KsWordStopsOutsideTheSchedule : Prop :=
  ∀ s : State, s.ki.toNat < 4 ∨ 43 < s.ki.toNat → exec .ksWord s = .fault (.keyIndexOutOfRange s.ki)

/-- R165: ENC_INIT with a valid key. -/
def Obligations.EncInitWhitens : Prop :=
  ∀ s : State, s.keyValid = true →
    ∃ t, exec .encInit s = .next t ∧ storeState t.st = storeState s.st ^^^ roundKey s.rk 0 ∧ t.rnd = 1#4 ∧
      t.phase = Phase.round.code ∧ t.rk = s.rk ∧ t.ki = s.ki ∧ t.keyValid = s.keyValid ∧ t.err = s.err ∧
      s.sameSurroundings t ∧ t.draws = s.draws

/-- R166: ENC_ROUND with a valid key and `r = RND`, 1 <= r <= 9. -/
def Obligations.EncRoundIsOneRound : Prop :=
  ∀ s : State, s.keyValid = true → 1 ≤ s.rnd.toNat → s.rnd.toNat ≤ 9 →
    ∃ t, exec .encRound s = .next t ∧
      storeState t.st = storeState (mixColumns (shiftRows (subBytes s.st))) ^^^ roundKey s.rk s.rnd.toNat ∧
      t.rnd.toNat = s.rnd.toNat + 1 ∧ (s.rnd = 9#4 → t.phase = Phase.final.code) ∧
      (s.rnd ≠ 9#4 → t.phase = s.phase) ∧ t.rk = s.rk ∧ t.ki = s.ki ∧ t.keyValid = s.keyValid ∧ t.err = s.err ∧
      s.sameSurroundings t ∧ t.draws = s.draws

/-- R167: ENC_FINAL with a valid key: no MixColumns, `RND` is not written. -/
def Obligations.EncFinalOmitsMixColumns : Prop :=
  ∀ s : State, s.keyValid = true →
    ∃ t, exec .encFinal s = .next t ∧
      storeState t.st = storeState (shiftRows (subBytes s.st)) ^^^ roundKey s.rk 10 ∧
      t.phase = Phase.done.code ∧ t.rnd = s.rnd ∧ t.rk = s.rk ∧ t.ki = s.ki ∧ t.keyValid = s.keyValid ∧
      t.err = s.err ∧ s.sameSurroundings t ∧ t.draws = s.draws

/-- The micro-operations of an encryption complete in every state, those too that no run reaches; where `rk_out` is
unspecified (R29) the round key read is open (MODEL's free value, log entry 8) and the rest of the effect is computed
from it; where it is specified the round key read is that of the schedule. MODEL's choice of log entry 12: `RND`
counts on in 4 bits. -/
def Obligations.EncryptionStepsCompleteAnywhere : Prop :=
  ∀ s : State,
    (∀ sel, s.keyValid = true → sel.toNat ≤ 10 → (s.readRoundKey sel).1 = roundKey s.rk sel.toNat) ∧
    (∃ t, exec .encInit s = .next t ∧ t.st = addRoundKey s.st (loadState (s.readRoundKey 0#4).1) ∧
      t.rnd = 1#4 ∧ t.phase = Phase.round.code ∧ t.rk = s.rk ∧ t.ki = s.ki ∧ t.keyValid = s.keyValid ∧
      t.err = s.err ∧ s.sameSurroundings t ∧ t.draws = (s.readRoundKey 0#4).2.draws) ∧
    (∃ t, exec .encRound s = .next t ∧
      t.st = addRoundKey (mixColumns (shiftRows (subBytes s.st))) (loadState (s.readRoundKey s.rnd).1) ∧
      t.rnd = s.rnd + 1#4 ∧ t.phase = (if s.rnd = 9#4 then Phase.final.code else s.phase) ∧ t.rk = s.rk ∧
      t.ki = s.ki ∧ t.keyValid = s.keyValid ∧ t.err = s.err ∧ s.sameSurroundings t ∧
      t.draws = (s.readRoundKey s.rnd).2.draws) ∧
    (∃ t, exec .encFinal s = .next t ∧
      t.st = addRoundKey (shiftRows (subBytes s.st)) (loadState (s.readRoundKey 10#4).1) ∧
      t.phase = Phase.done.code ∧ t.rnd = s.rnd ∧ t.rk = s.rk ∧ t.ki = s.ki ∧ t.keyValid = s.keyValid ∧
      t.err = s.err ∧ s.sameSurroundings t ∧ t.draws = (s.readRoundKey 10#4).2.draws)

/-! ## The whole machine -/

/-- R20, R211: the state after reset has `PHASE` IDLE and both flags 0, and meets every invariant of the core. -/
def Obligations.ResetStateMeetsInvariants : Prop :=
  State.reset.phase = Phase.idle.code ∧ State.reset.keyValid = false ∧ State.reset.err = false ∧ State.reset.Inv

/-- Every step keeps the invariants of R22 to R26, whatever the outside presents. -/
def Obligations.EveryStepKeepsInvariants : Prop :=
  ∀ s t : State, s.Inv → step s = .next t → t.Inv

/-- R171: from a state that meets the invariants every step has a successor, whatever is presented. -/
def Obligations.EveryInvariantStateSteps : Prop := ∀ s : State, s.Inv → ∃ t, step s = .next t

/-- R169: every transition of `PHASE`, for states that meet the invariants. -/
def Obligations.PhaseTransitions : Prop :=
  ∀ (s t : State) (w : StimulusWord), s.Inv → s.presents w → step s = .next t →
    (w.rst = true → t.phase = Phase.idle.code) ∧
    (w.rst = false →
      (s.phase = Phase.idle.code ∨ s.phase = Phase.done.code →
        (w.cmd = 0#2 ∨ w.cmd = 3#2 → t.phase = s.phase) ∧
        (w.cmd = 1#2 → w.keyLen = 16#8 → t.phase = Phase.ks.code) ∧
        (w.cmd = 1#2 → w.keyLen ≠ 16#8 → t.phase = Phase.idle.code) ∧
        (w.cmd = 2#2 → s.keyValid = true → t.phase = Phase.init.code) ∧
        (w.cmd = 2#2 → s.keyValid = false → t.phase = s.phase)) ∧
      (s.phase = Phase.ks.code →
        (s.ki.toNat ≤ 42 → t.phase = Phase.ks.code) ∧ (s.ki = 43#6 → t.phase = Phase.idle.code)) ∧
      (s.phase = Phase.init.code → t.phase = Phase.round.code) ∧
      (s.phase = Phase.round.code →
        (s.rnd.toNat ≤ 8 → t.phase = Phase.round.code) ∧ (s.rnd = 9#4 → t.phase = Phase.final.code)) ∧
      (s.phase = Phase.final.code → t.phase = Phase.done.code))

/-- R161, R216: in a busy phase the step does not depend on `cmd` or on any data input: two states that differ only in
the pending lines, both presenting inputs with `rst == 0`, step to states that differ only in the pending lines. -/
def Obligations.BusyStepIgnoresInputs : Prop :=
  ∀ (s t : State) (v w : StimulusWord) (l : List HostLine), s.busy = true → s.presents v → v.rst = false →
    (s.setPending l).presents w → w.rst = false → step s = .next t →
    step (s.setPending l) = .next (t.setPending (s.setPending l).taken.pending)

/-- R170: control depends on `PHASE`, `RND`, `KI`, the flags and `ctl` only: two steps that agree on these agree on
them again, whatever `ST`, `RK`, `key_in` and `pt_in` hold. -/
def Obligations.ControlIgnoresData : Prop :=
  ∀ (s s' t : State) (w w' : StimulusWord), s.control = s'.control → s.presents w → s'.presents w' →
    w.ctl = w'.ctl → step s = .next t → ∃ t', step s' = .next t' ∧ t'.control = t.control

/-- R190, R195: `ERR` rises only by an accepted EXPAND_KEY with `key_len != 16`, and falls only by an accepted one
with `key_len == 16` or by RESET. -/
def Obligations.ErrChangesOnlyByExpandKeyOrReset : Prop :=
  ∀ s t : State, step s = .next t →
    (s.err = false → t.err = true →
      ∃ w, s.presents w ∧ w.rst = false ∧ s.atRest = true ∧ w.cmd = 1#2 ∧ w.keyLen ≠ 16#8) ∧
    (s.err = true → t.err = false →
      ∃ w, s.presents w ∧ (w.rst = true ∨ (s.atRest = true ∧ w.cmd = 1#2 ∧ w.keyLen = 16#8)))

/-- R26: `KEY_VALID` rises only in the KS_WORD step that writes `RK[43]`, and falls only by an accepted EXPAND_KEY,
of good or bad length, or by RESET. -/
def Obligations.KeyValidChangesOnlyByKeyExpansion : Prop :=
  ∀ s t : State, step s = .next t →
    (s.keyValid = false → t.keyValid = true →
      ∃ w, s.presents w ∧ w.rst = false ∧ s.phase = Phase.ks.code ∧ s.ki = 43#6) ∧
    (s.keyValid = true → t.keyValid = false →
      ∃ w, s.presents w ∧ (w.rst = true ∨ (s.atRest = true ∧ w.cmd = 1#2)))

/-- R22: only KS_WORD and the EXPAND_KEY accept step write `RK`; and RESET changes it in the MODEL, because its words
hold no value afterwards (R210, R211; free values, log entry 6), although the hardware does not write it. -/
def Obligations.ScheduleWrittenOnlyByExpansion : Prop :=
  ∀ s t : State, step s = .next t → t.rk ≠ s.rk →
    ∃ w, s.presents w ∧ (w.rst = true ∨ s.phase = Phase.ks.code ∨
      (s.atRest = true ∧ w.cmd = 1#2 ∧ w.keyLen = 16#8))

/-- R168: DONE persists with `ST` unchanged, and with it `done` and `ct_out`, through NOP, the reserved command, an
ENCRYPT_BLOCK that is not accepted, and unit operations. -/
def Obligations.CiphertextIsHeldInDone : Prop :=
  ∀ s t : State, s.phase = Phase.done.code → step s = .next t →
    (∀ w, s.presents w → w.rst = false ∧ (w.cmd = 0#2 ∨ w.cmd = 3#2 ∨ (w.cmd = 2#2 ∧ s.keyValid = false))) →
    t.st = s.st ∧ t.phase = Phase.done.code ∧ t.done = true ∧ t.busy = false ∧ t.ctOut = some (storeState s.st)

/-- R26, R22: in a state that meets the invariants, `KEY_VALID == 1` implies that `RK[0..43]` is `expand_key` of the
key in `RK[0..3]`. -/
def Obligations.ValidScheduleIsExpandedKey : Prop :=
  ∀ s : State, s.Inv → s.keyValid = true → s.rk.toList = expandKey (roundKey s.rk 0)

/-- R151: an EXPAND_KEY accepted with `key_len == 16`, and 40 further steps without reset: those are KS_WORD steps with
`KI` = 4, ..., 43, and they end with
`RK = expand_key(K)`, `KEY_VALID` 1, `PHASE` IDLE, `ERR` 0, `KI` 44 (R148), whatever was in the registers before and
whatever commands are presented meanwhile. -/
def Obligations.KeyExpansionStepwise : Prop :=
  ∀ (s : State) (w : StimulusWord) (ws : List StimulusWord) (rest : List HostLine), s.atRest = true →
    w.rst = false → w.cmd = 1#2 → w.keyLen = 16#8 → ws.length = 40 → (∀ v ∈ ws, v.rst = false) →
    s.pending = (w :: ws).map HostLine.stimulus ++ rest →
    (∀ n, n < 40 → ∃ u, Host.Core.run Sys2Proof.core (n + 1) s = .next u ∧ u.phase = Phase.ks.code ∧
      u.ki.toNat = 4 + n ∧ step u = exec .ksWord u.taken) ∧
    ∃ t, Host.Core.run Sys2Proof.core 41 s = .next t ∧ t.rk.toList = expandKey w.keyIn ∧ t.keyValid = true ∧
      t.phase = Phase.idle.code ∧ t.err = false ∧ t.ki = 44#6 ∧ t.pending = rest ∧ t.st = s.st ∧ t.rnd = s.rnd

/-- R172: an ENCRYPT_BLOCK accepted with `KEY_VALID == 1`, and 11 further steps without reset: those are ENC_INIT,
ENC_ROUND with `RND` = 1..9 and ENC_FINAL, and they end in DONE with
`ct_out = encrypt_block(RK, P)`, `RK` untouched, whatever commands are presented meanwhile. -/
def Obligations.EncryptionStepwise : Prop :=
  ∀ (s : State) (w : StimulusWord) (ws : List StimulusWord) (rest : List HostLine), s.atRest = true →
    s.keyValid = true → w.rst = false → w.cmd = 2#2 → ws.length = 11 → (∀ v ∈ ws, v.rst = false) →
    s.pending = (w :: ws).map HostLine.stimulus ++ rest →
    (∃ u, Host.Core.run Sys2Proof.core 1 s = .next u ∧ u.phase = Phase.init.code) ∧
    (∀ n, n < 9 → ∃ u, Host.Core.run Sys2Proof.core (n + 2) s = .next u ∧ u.phase = Phase.round.code ∧
      u.rnd.toNat = n + 1 ∧ u.rk = s.rk) ∧
    (∃ u, Host.Core.run Sys2Proof.core 11 s = .next u ∧ u.phase = Phase.final.code) ∧
    ∃ t, Host.Core.run Sys2Proof.core 12 s = .next t ∧ t.phase = Phase.done.code ∧
      t.ctOut = some (Sys2Proof.Machine.encryptBlock s.rk w.ptIn) ∧ t.rk = s.rk ∧ t.keyValid = true ∧
      t.err = s.err ∧ t.pending = rest

/-- R172, R80: the lines of `ENCRYPT1 key=K, pt=P`, presented from a state at rest, end after 53 steps in DONE with
`ct_out = encrypt_block(expand_key(K), P)`, whatever the registers held before. -/
def Obligations.Encrypt1EndsWithTheCiphertext : Prop :=
  ∀ (s : State) (key pt : Block) (rest : List HostLine), s.atRest = true → s.pending = encrypt1 key pt ++ rest →
    ∃ t, Host.Core.run Sys2Proof.core 53 s = .next t ∧ t.phase = Phase.done.code ∧
      t.ctOut = some (Sys2Proof.Machine.encryptBlock (scheduleOfList (expandKey key)) pt)

/-- R222: every busy core step brings the end of the busy phase one step nearer, and it is at most 40 steps away. -/
def Obligations.BusyPhaseRunsDown : Prop :=
  ∀ (s t : State) (w : StimulusWord), s.Inv → s.busy = true → s.presents w → w.rst = false → step s = .next t →
    t.remaining + 1 = s.remaining ∧ s.remaining ≤ 40 ∧ (t.busy = false ↔ t.remaining = 0)

/-- R222: every step with `busy == 1` is enabled and changes `KI`, `RND` or `PHASE`; from any busy state that meets the
invariants, steps without reset reach `busy == 0` after at most 40 of them. -/
def Obligations.BusyEndsWithinFortySteps : Prop :=
  (∀ (s : State) (w : StimulusWord), s.Inv → s.busy = true → s.presents w → w.rst = false →
    ∃ t, step s = .next t ∧ (t.ki ≠ s.ki ∨ t.rnd ≠ s.rnd ∨ t.phase ≠ s.phase)) ∧
  (∀ (s : State) (ws : List StimulusWord) (rest : List HostLine), s.Inv → s.busy = true → ws.length = 40 →
    (∀ v ∈ ws, v.rst = false) → s.pending = ws.map HostLine.stimulus ++ rest →
    ∃ n t, n ≤ 40 ∧ Host.Core.run Sys2Proof.core n s = .next t ∧ t.busy = false)

/-- R218, R27 (that the value is absent, not some value, is the MODEL's choice among the two the spec offers, log entry
9): `ct_out` is `StoreState(ST)` while `done == 1`, and only then. -/
def Obligations.CtOutOnlyWhileDone : Prop :=
  ∀ s : State, (s.done = true → s.ctOut = some (storeState s.st)) ∧ (s.done = false → s.ctOut = none)
end

