-- ==== Sys2Proof/Laws/Decode.lean ====
section
/-! SUPPORT. The fields of a stimulus word put together from its fields (R73). -/

namespace Sys2Proof

variable (rst : Bool) (cmd : BitVec 2) (keyLen : Byte) (keyIn ptIn : Block)

theorem StimulusWord.ofFields_rst : (StimulusWord.ofFields rst cmd keyLen keyIn ptIn).rst = rst := by
  have h : (BitVec.ofBool rst ++ cmd ++ keyLen).getLsbD 10 = rst := by
    rw [BitVec.getLsbD_append, BitVec.getLsbD_append]
    simp
  exact h

theorem StimulusWord.ofFields_cmd : (StimulusWord.ofFields rst cmd keyLen keyIn ptIn).cmd = cmd := by
  have h : (BitVec.ofBool rst ++ cmd ++ keyLen).extractLsb' 8 2 = cmd := by
    rw [BitVec.extractLsb'_append_eq_of_le (by omega)]
    exact BitVec.extractLsb'_append_eq_right
  exact h

theorem StimulusWord.ofFields_keyLen : (StimulusWord.ofFields rst cmd keyLen keyIn ptIn).keyLen = keyLen := by
  have h : (BitVec.ofBool rst ++ cmd ++ keyLen).extractLsb' 0 8 = keyLen := BitVec.extractLsb'_append_eq_right
  exact h

theorem StimulusWord.ofFields_keyIn : (StimulusWord.ofFields rst cmd keyLen keyIn ptIn).keyIn = keyIn := rfl

theorem StimulusWord.ofFields_ptIn : (StimulusWord.ofFields rst cmd keyLen keyIn ptIn).ptIn = ptIn := rfl

/-- The idle host's inputs select NOP (R72, R173). -/
theorem StimulusWord.idle_fields : StimulusWord.idle.rst = false ∧ StimulusWord.idle.cmd = 0#2 := ⟨rfl, rfl⟩

end Sys2Proof
end

