-- ==== Sys2Proof/Laws/Operands.lean ====
section
/-! SUPPORT. Bytes of a word, words and bytes of a block: taking apart what was put together, and back (R55, R57). -/

namespace Sys2Proof.Machine

/-- The four bytes of a word put together from bytes. -/
theorem wordByte_wordOfBytes (b0 b1 b2 b3 : Byte) :
    wordByte (wordOfBytes b0 b1 b2 b3) 0 = b0 ∧ wordByte (wordOfBytes b0 b1 b2 b3) 1 = b1 ∧
      wordByte (wordOfBytes b0 b1 b2 b3) 2 = b2 ∧ wordByte (wordOfBytes b0 b1 b2 b3) 3 = b3 := by
  have h0 : (b0 ++ b1 ++ b2 ++ b3).extractLsb' 24 8 = b0 := by
    rw [BitVec.extractLsb'_append_eq_of_le (by omega), BitVec.extractLsb'_append_eq_of_le (by omega)]
    exact BitVec.extractLsb'_append_eq_left
  have h1 : (b0 ++ b1 ++ b2 ++ b3).extractLsb' 16 8 = b1 := by
    rw [BitVec.extractLsb'_append_eq_of_le (by omega), BitVec.extractLsb'_append_eq_of_le (by omega)]
    exact BitVec.extractLsb'_append_eq_right
  have h2 : (b0 ++ b1 ++ b2 ++ b3).extractLsb' 8 8 = b2 := by
    rw [BitVec.extractLsb'_append_eq_of_le (by omega)]
    exact BitVec.extractLsb'_append_eq_right
  have h3 : (b0 ++ b1 ++ b2 ++ b3).extractLsb' 0 8 = b3 := BitVec.extractLsb'_append_eq_right
  exact ⟨h0, h1, h2, h3⟩

/-- The four words of a block put together from words. -/
theorem blockWord_blockOfWords (w0 w1 w2 w3 : Word) :
    blockWord (blockOfWords w0 w1 w2 w3) 0 = w0 ∧ blockWord (blockOfWords w0 w1 w2 w3) 1 = w1 ∧
      blockWord (blockOfWords w0 w1 w2 w3) 2 = w2 ∧ blockWord (blockOfWords w0 w1 w2 w3) 3 = w3 := by
  have h0 : (w0 ++ w1 ++ w2 ++ w3).extractLsb' 96 32 = w0 := by
    rw [BitVec.extractLsb'_append_eq_of_le (by omega), BitVec.extractLsb'_append_eq_of_le (by omega)]
    exact BitVec.extractLsb'_append_eq_left
  have h1 : (w0 ++ w1 ++ w2 ++ w3).extractLsb' 64 32 = w1 := by
    rw [BitVec.extractLsb'_append_eq_of_le (by omega), BitVec.extractLsb'_append_eq_of_le (by omega)]
    exact BitVec.extractLsb'_append_eq_right
  have h2 : (w0 ++ w1 ++ w2 ++ w3).extractLsb' 32 32 = w2 := by
    rw [BitVec.extractLsb'_append_eq_of_le (by omega)]
    exact BitVec.extractLsb'_append_eq_right
  have h3 : (w0 ++ w1 ++ w2 ++ w3).extractLsb' 0 32 = w3 := BitVec.extractLsb'_append_eq_right
  exact ⟨h0, h1, h2, h3⟩

/-- Block byte `r + 4c` is byte `r` of block word `c` (R57). -/
theorem blockByte_eq_wordByte (p : Block) (r c : Nat) (hr : r < 4) (hc : c < 4) :
    blockByte p (r + 4 * c) = wordByte (blockWord p c) r := by
  unfold blockByte wordByte blockWord
  apply BitVec.eq_of_getLsbD_eq
  intro i hi
  have hi' : 24 - 8 * r + i < 32 := by omega
  simp only [BitVec.getLsbD_extractLsb', hi, hi', decide_true, Bool.true_and]
  congr 1
  omega

/-- A word is its four bytes. -/
theorem wordOfBytes_wordByte (w : Word) :
    wordOfBytes (wordByte w 0) (wordByte w 1) (wordByte w 2) (wordByte w 3) = w := by
  have h : (w.extractLsb' 24 8 ++ w.extractLsb' 16 8 ++ w.extractLsb' 8 8 ++ w.extractLsb' 0 8 : BitVec 32) = w := by
    apply BitVec.eq_of_getLsbD_eq
    intro i hi
    simp only [BitVec.getLsbD_append, BitVec.getLsbD_extractLsb']
    interval_cases i <;> simp
  exact h

/-- A block is its four words. -/
theorem blockOfWords_blockWord (p : Block) :
    blockOfWords (blockWord p 0) (blockWord p 1) (blockWord p 2) (blockWord p 3) = p := by
  have h : (p.extractLsb' 96 32 ++ p.extractLsb' 64 32 ++ p.extractLsb' 32 32 ++ p.extractLsb' 0 32
      : BitVec 128) = p := by
    apply BitVec.eq_of_getLsbD_eq
    intro i hi
    simp only [BitVec.getLsbD_append, BitVec.getLsbD_extractLsb']
    by_cases h1 : i < 32
    · simp [h1]
    · by_cases h2 : i < 64
      · simp [h1, show i - 32 < 32 by omega, show 32 + (i - 32) = i by omega]
      · by_cases h3 : i < 96
        · simp [h1, show ¬ (i - 32 < 32) by omega, show i - 32 - 32 < 32 by omega,
            show 64 + (i - 32 - 32) = i by omega]
        · simp [h1, show ¬ (i - 32 < 32) by omega, show ¬ i - 32 - 32 < 32 by omega,
            show i - 32 - 32 - 32 < 32 by omega, show 96 + (i - 32 - 32 - 32) = i by omega]
  exact h

/-- Column `c` of a block is the four bytes of its word `c` (R56, R57). -/
theorem blockColumn_eq (p : Block) (c : Nat) (hc : c < 4) :
    blockColumn p c =
      ⟨wordByte (blockWord p c) 0, wordByte (blockWord p c) 1, wordByte (blockWord p c) 2,
        wordByte (blockWord p c) 3⟩ := by
  unfold blockColumn
  rw [← blockByte_eq_wordByte p 0 c (by omega) hc, ← blockByte_eq_wordByte p 1 c (by omega) hc,
    ← blockByte_eq_wordByte p 2 c (by omega) hc, ← blockByte_eq_wordByte p 3 c (by omega) hc]
  simp

end Sys2Proof.Machine
end

