-- ==== Sys2Proof/Laws/State.lean ====
section
/-! SUPPORT. One lemma per field per setter of `State`, so that no later proof unfolds a record update. -/

namespace Sys2Proof.Machine

section
variable (s : State) (v : StateMatrix)
@[simp] theorem State.setSt_st : (s.setSt v).st = v := rfl
@[simp] theorem State.setSt_rk : (s.setSt v).rk = s.rk := rfl
@[simp] theorem State.setSt_phase : (s.setSt v).phase = s.phase := rfl
@[simp] theorem State.setSt_rnd : (s.setSt v).rnd = s.rnd := rfl
@[simp] theorem State.setSt_ki : (s.setSt v).ki = s.ki := rfl
@[simp] theorem State.setSt_keyValid : (s.setSt v).keyValid = s.keyValid := rfl
@[simp] theorem State.setSt_err : (s.setSt v).err = s.err := rfl
@[simp] theorem State.setSt_unit : (s.setSt v).unit = s.unit := rfl
@[simp] theorem State.setSt_pending : (s.setSt v).pending = s.pending := rfl
@[simp] theorem State.setSt_draws : (s.setSt v).draws = s.draws := rfl
end

section
variable (s : State) (v : Vector Word 44)
@[simp] theorem State.setRk_st : (s.setRk v).st = s.st := rfl
@[simp] theorem State.setRk_rk : (s.setRk v).rk = v := rfl
@[simp] theorem State.setRk_phase : (s.setRk v).phase = s.phase := rfl
@[simp] theorem State.setRk_rnd : (s.setRk v).rnd = s.rnd := rfl
@[simp] theorem State.setRk_ki : (s.setRk v).ki = s.ki := rfl
@[simp] theorem State.setRk_keyValid : (s.setRk v).keyValid = s.keyValid := rfl
@[simp] theorem State.setRk_err : (s.setRk v).err = s.err := rfl
@[simp] theorem State.setRk_unit : (s.setRk v).unit = s.unit := rfl
@[simp] theorem State.setRk_pending : (s.setRk v).pending = s.pending := rfl
@[simp] theorem State.setRk_draws : (s.setRk v).draws = s.draws := rfl
end

section
variable (s : State) (v : BitVec 3)
@[simp] theorem State.setPhase_st : (s.setPhase v).st = s.st := rfl
@[simp] theorem State.setPhase_rk : (s.setPhase v).rk = s.rk := rfl
@[simp] theorem State.setPhase_phase : (s.setPhase v).phase = v := rfl
@[simp] theorem State.setPhase_rnd : (s.setPhase v).rnd = s.rnd := rfl
@[simp] theorem State.setPhase_ki : (s.setPhase v).ki = s.ki := rfl
@[simp] theorem State.setPhase_keyValid : (s.setPhase v).keyValid = s.keyValid := rfl
@[simp] theorem State.setPhase_err : (s.setPhase v).err = s.err := rfl
@[simp] theorem State.setPhase_unit : (s.setPhase v).unit = s.unit := rfl
@[simp] theorem State.setPhase_pending : (s.setPhase v).pending = s.pending := rfl
@[simp] theorem State.setPhase_draws : (s.setPhase v).draws = s.draws := rfl
end

section
variable (s : State) (v : BitVec 4)
@[simp] theorem State.setRnd_st : (s.setRnd v).st = s.st := rfl
@[simp] theorem State.setRnd_rk : (s.setRnd v).rk = s.rk := rfl
@[simp] theorem State.setRnd_phase : (s.setRnd v).phase = s.phase := rfl
@[simp] theorem State.setRnd_rnd : (s.setRnd v).rnd = v := rfl
@[simp] theorem State.setRnd_ki : (s.setRnd v).ki = s.ki := rfl
@[simp] theorem State.setRnd_keyValid : (s.setRnd v).keyValid = s.keyValid := rfl
@[simp] theorem State.setRnd_err : (s.setRnd v).err = s.err := rfl
@[simp] theorem State.setRnd_unit : (s.setRnd v).unit = s.unit := rfl
@[simp] theorem State.setRnd_pending : (s.setRnd v).pending = s.pending := rfl
@[simp] theorem State.setRnd_draws : (s.setRnd v).draws = s.draws := rfl
end

section
variable (s : State) (v : BitVec 6)
@[simp] theorem State.setKi_st : (s.setKi v).st = s.st := rfl
@[simp] theorem State.setKi_rk : (s.setKi v).rk = s.rk := rfl
@[simp] theorem State.setKi_phase : (s.setKi v).phase = s.phase := rfl
@[simp] theorem State.setKi_rnd : (s.setKi v).rnd = s.rnd := rfl
@[simp] theorem State.setKi_ki : (s.setKi v).ki = v := rfl
@[simp] theorem State.setKi_keyValid : (s.setKi v).keyValid = s.keyValid := rfl
@[simp] theorem State.setKi_err : (s.setKi v).err = s.err := rfl
@[simp] theorem State.setKi_unit : (s.setKi v).unit = s.unit := rfl
@[simp] theorem State.setKi_pending : (s.setKi v).pending = s.pending := rfl
@[simp] theorem State.setKi_draws : (s.setKi v).draws = s.draws := rfl
end

section
variable (s : State) (v : Bool)
@[simp] theorem State.setKeyValid_st : (s.setKeyValid v).st = s.st := rfl
@[simp] theorem State.setKeyValid_rk : (s.setKeyValid v).rk = s.rk := rfl
@[simp] theorem State.setKeyValid_phase : (s.setKeyValid v).phase = s.phase := rfl
@[simp] theorem State.setKeyValid_rnd : (s.setKeyValid v).rnd = s.rnd := rfl
@[simp] theorem State.setKeyValid_ki : (s.setKeyValid v).ki = s.ki := rfl
@[simp] theorem State.setKeyValid_keyValid : (s.setKeyValid v).keyValid = v := rfl
@[simp] theorem State.setKeyValid_err : (s.setKeyValid v).err = s.err := rfl
@[simp] theorem State.setKeyValid_unit : (s.setKeyValid v).unit = s.unit := rfl
@[simp] theorem State.setKeyValid_pending : (s.setKeyValid v).pending = s.pending := rfl
@[simp] theorem State.setKeyValid_draws : (s.setKeyValid v).draws = s.draws := rfl
end

section
variable (s : State) (v : Bool)
@[simp] theorem State.setErr_st : (s.setErr v).st = s.st := rfl
@[simp] theorem State.setErr_rk : (s.setErr v).rk = s.rk := rfl
@[simp] theorem State.setErr_phase : (s.setErr v).phase = s.phase := rfl
@[simp] theorem State.setErr_rnd : (s.setErr v).rnd = s.rnd := rfl
@[simp] theorem State.setErr_ki : (s.setErr v).ki = s.ki := rfl
@[simp] theorem State.setErr_keyValid : (s.setErr v).keyValid = s.keyValid := rfl
@[simp] theorem State.setErr_err : (s.setErr v).err = v := rfl
@[simp] theorem State.setErr_unit : (s.setErr v).unit = s.unit := rfl
@[simp] theorem State.setErr_pending : (s.setErr v).pending = s.pending := rfl
@[simp] theorem State.setErr_draws : (s.setErr v).draws = s.draws := rfl
end

section
variable (s : State) (v : UnitPorts)
@[simp] theorem State.setUnit_st : (s.setUnit v).st = s.st := rfl
@[simp] theorem State.setUnit_rk : (s.setUnit v).rk = s.rk := rfl
@[simp] theorem State.setUnit_phase : (s.setUnit v).phase = s.phase := rfl
@[simp] theorem State.setUnit_rnd : (s.setUnit v).rnd = s.rnd := rfl
@[simp] theorem State.setUnit_ki : (s.setUnit v).ki = s.ki := rfl
@[simp] theorem State.setUnit_keyValid : (s.setUnit v).keyValid = s.keyValid := rfl
@[simp] theorem State.setUnit_err : (s.setUnit v).err = s.err := rfl
@[simp] theorem State.setUnit_unit : (s.setUnit v).unit = v := rfl
@[simp] theorem State.setUnit_pending : (s.setUnit v).pending = s.pending := rfl
@[simp] theorem State.setUnit_draws : (s.setUnit v).draws = s.draws := rfl
end

section
variable (s : State) (v : List HostLine)
@[simp] theorem State.setPending_st : (s.setPending v).st = s.st := rfl
@[simp] theorem State.setPending_rk : (s.setPending v).rk = s.rk := rfl
@[simp] theorem State.setPending_phase : (s.setPending v).phase = s.phase := rfl
@[simp] theorem State.setPending_rnd : (s.setPending v).rnd = s.rnd := rfl
@[simp] theorem State.setPending_ki : (s.setPending v).ki = s.ki := rfl
@[simp] theorem State.setPending_keyValid : (s.setPending v).keyValid = s.keyValid := rfl
@[simp] theorem State.setPending_err : (s.setPending v).err = s.err := rfl
@[simp] theorem State.setPending_unit : (s.setPending v).unit = s.unit := rfl
@[simp] theorem State.setPending_pending : (s.setPending v).pending = v := rfl
@[simp] theorem State.setPending_draws : (s.setPending v).draws = s.draws := rfl
end

section
variable (s : State) (v : Nat)
@[simp] theorem State.setDraws_st : (s.setDraws v).st = s.st := rfl
@[simp] theorem State.setDraws_rk : (s.setDraws v).rk = s.rk := rfl
@[simp] theorem State.setDraws_phase : (s.setDraws v).phase = s.phase := rfl
@[simp] theorem State.setDraws_rnd : (s.setDraws v).rnd = s.rnd := rfl
@[simp] theorem State.setDraws_ki : (s.setDraws v).ki = s.ki := rfl
@[simp] theorem State.setDraws_keyValid : (s.setDraws v).keyValid = s.keyValid := rfl
@[simp] theorem State.setDraws_err : (s.setDraws v).err = s.err := rfl
@[simp] theorem State.setDraws_unit : (s.setDraws v).unit = s.unit := rfl
@[simp] theorem State.setDraws_pending : (s.setDraws v).pending = s.pending := rfl
@[simp] theorem State.setDraws_draws : (s.setDraws v).draws = v := rfl
end

/-- Two states with the same fields are the same state. -/
theorem State.eq_of_fields {s t : State} (hst : s.st = t.st) (hrk : s.rk = t.rk) (hphase : s.phase = t.phase)
    (hrnd : s.rnd = t.rnd) (hki : s.ki = t.ki) (hvalid : s.keyValid = t.keyValid) (herr : s.err = t.err)
    (hunit : s.unit = t.unit) (hpending : s.pending = t.pending) (hdraws : s.draws = t.draws) : s = t := by
  obtain ⟨⟨_, _, _, _, _, _, _⟩, _, _, _⟩ := s
  obtain ⟨⟨_, _, _, _, _, _, _⟩, _, _, _⟩ := t
  simp_all

end Sys2Proof.Machine
end

