-- ==== Sys2Proof/Laws/Ops.lean ====
section
/-! SUPPORT. For each shared operation, once, everything it can do; proofs cite these instead of unfolding it. -/

namespace Sys2Proof.Machine

/-! ### The phase -/

@[simp] theorem Phase.ofCode_code (p : Phase) : Phase.ofCode p.code = some p := by cases p <;> rfl

/-- A code that names a phase is that phase's code. -/
theorem Phase.code_of_ofCode {c : BitVec 3} {p : Phase} (h : Phase.ofCode c = some p) : c = p.code := by
  revert c p
  decide

/-- The codes that name no phase are 6 and 7 (R23, R78). -/
theorem Phase.ofCode_eq_none_iff (c : BitVec 3) : Phase.ofCode c = none ↔ c = 6#3 ∨ c = 7#3 := by
  revert c
  decide

/-- A phase is busy exactly when it has a micro-operation (R26, R74). -/
theorem Phase.busy_iff_microOp (p : Phase) : p.busy = true ↔ ∃ i, p.microOp = some i := by
  cases p <;> simp [Phase.busy, Phase.microOp]

theorem State.busy_of_phase {s : State} {p : Phase} (h : s.phase = p.code) : s.busy = p.busy := by
  simp [State.busy, h]

theorem State.atRest_of_phase {s : State} {p : Phase} (h : s.phase = p.code) : s.atRest = !p.busy := by
  simp [State.atRest, h]

/-- At rest means IDLE or DONE (R161). -/
theorem State.atRest_iff (s : State) :
    s.atRest = true ↔ s.phase = Phase.idle.code ∨ s.phase = Phase.done.code := by
  have h : ∀ c : BitVec 3, (match Phase.ofCode c with | some p => !p.busy | none => false) = true ↔
      c = Phase.idle.code ∨ c = Phase.done.code := by decide
  exact h s.phase

/-- Busy means KS, INIT, ROUND or FINAL (R26). -/
theorem State.busy_iff (s : State) : s.busy = true ↔
    s.phase = Phase.ks.code ∨ s.phase = Phase.init.code ∨ s.phase = Phase.round.code ∨ s.phase = Phase.final.code := by
  have h : ∀ c : BitVec 3, (match Phase.ofCode c with | some p => p.busy | none => false) = true ↔
      c = Phase.ks.code ∨ c = Phase.init.code ∨ c = Phase.round.code ∨ c = Phase.final.code := by decide
  exact h s.phase

/-! ### Acceptance -/

/-- All that `acceptAtRest` can answer (R161, R78). -/
theorem State.acceptAtRest_cases (s t : State) :
    (s.atRest = true ∧ s.acceptAtRest t = .next t) ∨ (s.busy = true ∧ s.acceptAtRest t = .next s) ∨
      (Phase.ofCode s.phase = none ∧ s.acceptAtRest t = .fault (.undecodable (.unreachablePhase s.phase))) := by
  unfold State.acceptAtRest State.atRest State.busy
  cases h : Phase.ofCode s.phase with
  | none => simp
  | some p => cases hp : p.busy <;> simp [hp]

theorem State.acceptAtRest_of_atRest {s : State} (t : State) (h : s.atRest = true) : s.acceptAtRest t = .next t := by
  unfold State.atRest at h
  unfold State.acceptAtRest
  cases hp : Phase.ofCode s.phase with
  | none => simp [hp] at h
  | some p => simp_all

theorem State.acceptAtRest_of_busy {s : State} (t : State) (h : s.busy = true) : s.acceptAtRest t = .next s := by
  unfold State.busy at h
  unfold State.acceptAtRest
  cases hp : Phase.ofCode s.phase with
  | none => simp [hp] at h
  | some p => simp_all

/-! ### The schedule file -/

/-- A read after a write to `RK`, for the two indices in range: the written word, or the old one elsewhere. -/
theorem rkWord_set (rk : Vector Word 44) (i j : Nat) (v : Word) (hi : i < 44) :
    rkWord (rk.setIfInBounds i v) j = if j = i then v else rkWord rk j := by
  unfold rkWord
  by_cases hj : j < 44
  · by_cases h : j = i
    · subst h
      simp [Vector.getD, hj]
    · simp [Vector.getD, hj, h, Ne.symm h]
  · have h : j ≠ i := by omega
    simp [Vector.getD, hj, h]

section
variable (s : State) (i : Nat) (v : Word)
@[simp] theorem State.writeRk_rk : (s.writeRk i v).rk = s.rk.setIfInBounds i v := rfl
@[simp] theorem State.writeRk_st : (s.writeRk i v).st = s.st := rfl
@[simp] theorem State.writeRk_phase : (s.writeRk i v).phase = s.phase := rfl
@[simp] theorem State.writeRk_rnd : (s.writeRk i v).rnd = s.rnd := rfl
@[simp] theorem State.writeRk_ki : (s.writeRk i v).ki = s.ki := rfl
@[simp] theorem State.writeRk_keyValid : (s.writeRk i v).keyValid = s.keyValid := rfl
@[simp] theorem State.writeRk_err : (s.writeRk i v).err = s.err := rfl
@[simp] theorem State.writeRk_unit : (s.writeRk i v).unit = s.unit := rfl
@[simp] theorem State.writeRk_pending : (s.writeRk i v).pending = s.pending := rfl
@[simp] theorem State.writeRk_draws : (s.writeRk i v).draws = s.draws := rfl
end

/-- Two schedule files with the same 44 words are the same file. -/
theorem rk_ext {a b : Vector Word 44} (h : ∀ i, i < 44 → rkWord a i = rkWord b i) : a = b := by
  apply Vector.ext
  intro i hi
  have := h i hi
  simpa [rkWord, Vector.getD, hi] using this

/-- KS_LOAD's four writes (R146): words 0..3 are the key's, the others stay. -/
theorem State.rkWord_loadKeyWords (s : State) (key : Block) (j : Nat) :
    rkWord (s.loadKeyWords key).rk j = if j < 4 then blockWord key j else rkWord s.rk j := by
  unfold State.loadKeyWords
  simp only [State.writeRk_rk]
  rw [rkWord_set _ _ _ _ (by omega), rkWord_set _ _ _ _ (by omega), rkWord_set _ _ _ _ (by omega),
    rkWord_set _ _ _ _ (by omega)]
  by_cases h : j < 4
  · interval_cases j <;> simp
  · simp [h, show j ≠ 0 by omega, show j ≠ 1 by omega, show j ≠ 2 by omega, show j ≠ 3 by omega]

/-- KS_LOAD's four writes touch nothing but `RK`. -/
theorem State.loadKeyWords_eq_setRk (s : State) (key : Block) :
    s.loadKeyWords key = s.setRk (s.loadKeyWords key).rk := rfl

/-! ### The exception, the accept steps, RESET -/

/-- Taking `InvalidKeyLength` (R193): three assignments, nothing else. -/
theorem State.raiseInvalidKeyLength_spec (s : State) :
    s.raiseInvalidKeyLength.err = true ∧ s.raiseInvalidKeyLength.keyValid = false ∧
      s.raiseInvalidKeyLength.phase = Phase.idle.code ∧ s.raiseInvalidKeyLength.rk = s.rk ∧
      s.raiseInvalidKeyLength.ki = s.ki ∧ s.raiseInvalidKeyLength.st = s.st ∧ s.raiseInvalidKeyLength.rnd = s.rnd ∧
      s.raiseInvalidKeyLength.unit = s.unit ∧ s.raiseInvalidKeyLength.pending = s.pending ∧
      s.raiseInvalidKeyLength.draws = s.draws :=
  ⟨rfl, rfl, rfl, rfl, rfl, rfl, rfl, rfl, rfl, rfl⟩

/-- The length check is the one number 16 (R145). -/
theorem keyLengthOk_iff (n : Byte) : keyLengthOk n = true ↔ n = 16#8 := by
  simp only [keyLengthOk, decide_eq_true_eq, ← BitVec.toNat_inj]
  rfl

/-- KS_LOAD's two branches (R146). -/
theorem State.ksLoad_cases (s : State) (n : Byte) (key : Block) :
    (n = 16#8 ∧ s.ksLoad n key =
        ((((s.loadKeyWords key).setKi 4#6).setKeyValid false).setErr false).setPhase Phase.ks.code) ∨
      (n ≠ 16#8 ∧ s.ksLoad n key = s.raiseInvalidKeyLength) := by
  by_cases h : n = 16#8
  · exact .inl ⟨h, by simp [State.ksLoad, (keyLengthOk_iff n).2 h]⟩
  · refine .inr ⟨h, ?_⟩
    have : keyLengthOk n = false := by
      cases hk : keyLengthOk n
      · rfl
      · exact absurd ((keyLengthOk_iff n).1 hk) h
    simp [State.ksLoad, this]

/-- The ENCRYPT_BLOCK accept step's two branches (R161, R164). -/
theorem State.encryptAccept_cases (s : State) (pt : Block) :
    (s.keyValid = true ∧ s.encryptAccept pt = (s.setSt (loadState pt)).setPhase Phase.init.code) ∨
      (s.keyValid = false ∧ s.encryptAccept pt = s) := by
  cases h : s.keyValid
  · exact .inr ⟨rfl, by simp [State.encryptAccept, h]⟩
  · exact .inl ⟨rfl, by simp [State.encryptAccept, h]⟩

/-- KS_WORD's assignments (R147): one word, the index, and in the last step the flag and the phase. -/
theorem State.ksWordWrite_cases (s : State) (i : Nat) :
    (i = 43 ∧ s.ksWordWrite i =
        ((((s.writeRk i (rkWord s.rk (i - 4) ^^^ ksTemp i (rkWord s.rk (i - 1)))).setKi (s.ki + 1#6)).setKeyValid
          true).setPhase Phase.idle.code)) ∨
      (i ≠ 43 ∧ s.ksWordWrite i =
        (s.writeRk i (rkWord s.rk (i - 4) ^^^ ksTemp i (rkWord s.rk (i - 1)))).setKi (s.ki + 1#6)) := by
  by_cases h : i = 43
  · exact .inl ⟨h, by simp only [State.ksWordWrite, if_pos h]⟩
  · exact .inr ⟨h, by simp only [State.ksWordWrite, if_neg h]⟩

/-- Losing the data (R210, R32) touches `ST`, `RK`, `RND`, `KI` and the counter of free values, nothing else. -/
theorem State.loseData_frame (s : State) :
    s.loseData.phase = s.phase ∧ s.loseData.keyValid = s.keyValid ∧ s.loseData.err = s.err ∧
      s.loseData.unit = s.unit ∧ s.loseData.pending = s.pending :=
  ⟨rfl, rfl, rfl, rfl, rfl⟩

/-- RESET's assignments (R210) touch `PHASE`, `KEY_VALID` and `ERR`, nothing else. -/
theorem State.resetControl_spec (s : State) :
    s.resetControl.phase = Phase.idle.code ∧ s.resetControl.keyValid = false ∧ s.resetControl.err = false ∧
      s.resetControl.st = s.st ∧ s.resetControl.rk = s.rk ∧ s.resetControl.rnd = s.rnd ∧ s.resetControl.ki = s.ki ∧
      s.resetControl.unit = s.unit ∧ s.resetControl.pending = s.pending ∧ s.resetControl.draws = s.draws :=
  ⟨rfl, rfl, rfl, rfl, rfl, rfl, rfl, rfl, rfl, rfl⟩

/-! ### Free values and round keys -/

/-- A draw changes nothing but the counter. -/
theorem State.draw_snd (s : State) (w : Nat) : (s.draw w).2 = s.setDraws (s.draws + 1) := rfl

/-- Reading a round key (R29, R149): the four words where `rk_out` is specified, else a free value; nothing but the
counter of free values can change. -/
theorem State.readRoundKey_cases (s : State) (sel : BitVec 4) :
    (s.rkOutSpecified sel = true ∧ s.readRoundKey sel = (roundKey s.rk sel.toNat, s)) ∨
      (s.rkOutSpecified sel = false ∧
        s.readRoundKey sel = (Config.freeBits 128 s.draws, s.setDraws (s.draws + 1))) := by
  unfold State.readRoundKey
  cases h : s.rkOutSpecified sel
  · right
    exact ⟨rfl, rfl⟩
  · left
    exact ⟨rfl, rfl⟩

/-- With a valid key and a select in range the read is the round key, and the state stays. -/
theorem State.readRoundKey_of_valid {s : State} {sel : BitVec 4} (hv : s.keyValid = true) (hs : sel.toNat ≤ 10) :
    s.readRoundKey sel = (roundKey s.rk sel.toNat, s) := by
  have h : s.rkOutSpecified sel = true := by
    simp only [State.rkOutSpecified, hv, Bool.true_and, decide_eq_true_eq]
    exact hs
  simp [State.readRoundKey, h]

/-! ### Letting the module outputs go -/

section
variable (s : State)
@[simp] theorem State.releaseUnits_st : s.releaseUnits.st = s.st := rfl
@[simp] theorem State.releaseUnits_rk : s.releaseUnits.rk = s.rk := rfl
@[simp] theorem State.releaseUnits_phase : s.releaseUnits.phase = s.phase := rfl
@[simp] theorem State.releaseUnits_rnd : s.releaseUnits.rnd = s.rnd := rfl
@[simp] theorem State.releaseUnits_ki : s.releaseUnits.ki = s.ki := rfl
@[simp] theorem State.releaseUnits_keyValid : s.releaseUnits.keyValid = s.keyValid := rfl
@[simp] theorem State.releaseUnits_err : s.releaseUnits.err = s.err := rfl
@[simp] theorem State.releaseUnits_pending : s.releaseUnits.pending = s.pending := rfl
@[simp] theorem State.releaseUnits_draws : s.releaseUnits.draws = s.draws := rfl
@[simp] theorem State.releaseUnits_unit : s.releaseUnits.unit = UnitPorts.undriven := rfl
@[simp] theorem State.releaseUnits_toCoreState : s.releaseUnits.toCoreState = s.toCoreState := rfl
end

/-! ### The internal port `rk_sel` -/

/-- In ENC_INIT, ENC_ROUND and ENC_FINAL the port shows the round key that the step reads (R29, R165 to R167). -/
theorem State.rkSel_of_encryption (s : State) :
    (s.phase = Phase.init.code → s.rkSel = 0#4) ∧ (s.phase = Phase.round.code → s.rkSel = s.rnd) ∧
      (s.phase = Phase.final.code → s.rkSel = 10#4) := by
  refine ⟨fun h => ?_, fun h => ?_, fun h => ?_⟩ <;> simp [State.rkSel, h, Phase.code]

/-- The port is never driven above 10 (R29, R59), for a round counter in its range while rounds run (R24). -/
theorem State.rkSel_le {s : State} (h : s.phase = Phase.round.code → s.rnd.toNat ≤ 10) : s.rkSel.toNat ≤ 10 := by
  unfold State.rkSel
  split
  · decide
  · split
    · exact h ‹_›
    · split
      · decide
      · exact Nat.le_of_lt_succ (Config.rkSelElsewhere s.phase s.rnd).isLt

/-! ### Fetching -/

theorem State.presented_of_stimulus {s : State} {w : StimulusWord} {rest : List HostLine}
    (h : s.pending = .stimulus w :: rest) : s.presented = .stimulus w := by
  simp [State.presented, h, fetchLine]

theorem State.taken_of_stimulus {s : State} {w : StimulusWord} {rest : List HostLine}
    (h : s.pending = .stimulus w :: rest) : s.taken = s.releaseUnits.setPending rest := by
  simp [State.taken, h, fetchLine]

theorem State.presented_of_unit {s : State} {u : UnitInput} {rest : List HostLine}
    (h : s.pending = .unit u :: rest) : s.presented = .unit u := by
  simp [State.presented, h, fetchLine]

theorem State.taken_of_unit {s : State} {u : UnitInput} {rest : List HostLine}
    (h : s.pending = .unit u :: rest) : s.taken = s.releaseUnits.setPending rest := by
  simp [State.taken, h, fetchLine]

/-- All that the decoder of the whole block can answer (R70, R171): RESET; the micro-operation of a busy phase; the
command of a phase at rest; no operation for 6 and 7. -/
theorem decodeTop_cases (p : BitVec 3) (w : StimulusWord) :
    (w.rst = true ∧ decodeTop p w = .ok .reset) ∨
      (w.rst = false ∧ ∃ ph i, p = Phase.code ph ∧ ph.microOp = some i ∧ decodeTop p w = .ok i) ∨
      (w.rst = false ∧ (∃ ph, p = Phase.code ph ∧ ph.microOp = none) ∧ decodeTop p w = .ok (decodeStimulus w)) ∨
      (w.rst = false ∧ Phase.ofCode p = none ∧ decodeTop p w = .error (.unreachablePhase p)) := by
  unfold decodeTop
  cases hr : w.rst
  · cases hp : Phase.ofCode p with
    | none => simp
    | some ph =>
      have hc := Phase.code_of_ofCode hp
      cases hm : ph.microOp with
      | none => exact .inr (.inr (.inl ⟨rfl, ⟨ph, hc, hm⟩, by simp [hm]⟩))
      | some i => exact .inr (.inl ⟨rfl, ph, i, hc, hm, by simp [hm]⟩)
  · simp

end Sys2Proof.Machine
end

