-- ==== Sys2Proof/Laws/PerInstr.lean ====
section
/-! SUPPORT. The family `Selector`: every operation's encoding carries the selector bits that
`spec/opcode_table.json` gives its row (match and mask on `ctl`, the code of `PHASE`, or the module), one lemma per
constructor. -/

namespace Sys2Proof.Laws.Selector

/-- The encoding is a stimulus word whose `ctl` meets a row's match and mask (R73). -/
def ctlRow (mask value : BitVec 11) (e : Encoding) : Prop :=
  match e with
  | .stimulus w => w.ctl &&& mask = value
  | .unit _ => False
  | .phase _ => False

/-- The selector of each row of the table. -/
def Statement (i : Instr) : Prop :=
  match i with
  | .gfmul _ _ => ∃ v, encode i = .unit (.galoisFieldMult v)
  | .sbox _ => ∃ v, encode i = .unit (.aes128Sbox v)
  | .subbytes _ => ∃ v, encode i = .unit (.aesSubbytes v)
  | .shiftrows _ => ∃ v, encode i = .unit (.aesShiftrows v)
  | .mixcolumns _ => ∃ v, encode i = .unit (.aesMixcolumns v)
  | .addroundkey _ _ => ∃ v, encode i = .unit (.aesAddroundkey v)
  | .rotword _ => ∃ v, encode i = .unit (.rotWord v)
  | .subword _ => ∃ v, encode i = .unit (.subWord v)
  | .rconw _ => ∃ v, encode i = .unit (.rconW v)
  | .nop => ctlRow 0x700#11 0x000#11 (encode i)
  | .expandKey _ _ => ctlRow 0x700#11 0x100#11 (encode i)
  | .encryptBlock _ => ctlRow 0x700#11 0x200#11 (encode i)
  | .rsvd3 => ctlRow 0x700#11 0x300#11 (encode i)
  | .ksWord => encode i = .phase 1#3
  | .encInit => encode i = .phase 2#3
  | .encRound => encode i = .phase 3#3
  | .encFinal => encode i = .phase 4#3
  | .reset => ctlRow 0x400#11 0x400#11 (encode i)

theorem gfmul (a b : Byte) : Statement (.gfmul a b) := ⟨_, rfl⟩
theorem sbox (x : Byte) : Statement (.sbox x) := ⟨_, rfl⟩
theorem subbytes (s : Block) : Statement (.subbytes s) := ⟨_, rfl⟩
theorem shiftrows (s : Block) : Statement (.shiftrows s) := ⟨_, rfl⟩
theorem mixcolumns (s : Block) : Statement (.mixcolumns s) := ⟨_, rfl⟩
theorem addroundkey (s k : Block) : Statement (.addroundkey s k) := ⟨_, rfl⟩
theorem rotword (w : Word) : Statement (.rotword w) := ⟨_, rfl⟩
theorem subword (w : Word) : Statement (.subword w) := ⟨_, rfl⟩
theorem rconw (j : Nibble) : Statement (.rconw j) := ⟨_, rfl⟩
theorem nop : Statement .nop := rfl

/-- The length stands in the low byte, under the mask's zeros. -/
theorem expandKey (n : Byte) (k : Block) : Statement (.expandKey n k) := by
  have h : ∀ n : Byte, (BitVec.ofBool false ++ 1#2 ++ n : BitVec 11) &&& 0x700#11 = 0x100#11 := by decide
  exact h n

theorem encryptBlock (p : Block) : Statement (.encryptBlock p) := by
  have h : (BitVec.ofBool false ++ 2#2 ++ 0#8 : BitVec 11) &&& 0x700#11 = 0x200#11 := by decide
  exact h

theorem rsvd3 : Statement .rsvd3 := rfl
theorem ksWord : Statement .ksWord := rfl
theorem encInit : Statement .encInit := rfl
theorem encRound : Statement .encRound := rfl
theorem encFinal : Statement .encFinal := rfl
theorem reset : Statement .reset := rfl

end Sys2Proof.Laws.Selector
end

