-- ==== Sys2Proof/Laws/Step.lean ====
section
/-! SUPPORT. What one step can do, said once: the operation it performs, by what is presented and by the phase. -/

namespace Sys2Proof.Machine

/-! ### Taking a line changes nothing but the pending lines and the module outputs -/

section
variable (s : State)
@[simp] theorem State.taken_st : s.taken.st = s.st := rfl
@[simp] theorem State.taken_rk : s.taken.rk = s.rk := rfl
@[simp] theorem State.taken_phase : s.taken.phase = s.phase := rfl
@[simp] theorem State.taken_rnd : s.taken.rnd = s.rnd := rfl
@[simp] theorem State.taken_ki : s.taken.ki = s.ki := rfl
@[simp] theorem State.taken_keyValid : s.taken.keyValid = s.keyValid := rfl
@[simp] theorem State.taken_err : s.taken.err = s.err := rfl
@[simp] theorem State.taken_unit : s.taken.unit = UnitPorts.undriven := rfl
@[simp] theorem State.taken_toCoreState : s.taken.toCoreState = s.toCoreState := rfl
@[simp] theorem State.taken_draws : s.taken.draws = s.draws := rfl
end

/-- Taking a line after replacing the lines differs from taking one before it in the lines left only. -/
theorem State.taken_setPending (s : State) (l : List HostLine) :
    (s.setPending l).taken = s.taken.setPending (s.setPending l).taken.pending := rfl

theorem State.taken_atRest (s : State) : s.taken.atRest = s.atRest := rfl

theorem State.taken_busy (s : State) : s.taken.busy = s.busy := rfl

/-! ### The operation of a step -/

/-- Under unit inputs the step is that unit operation. -/
theorem step_of_unit {s : State} {u : UnitInput} (h : s.presented = .unit u) :
    step s = exec (decodeUnit u) s.taken := by
  simp [step, decodePresented, h]

/-- Under inputs on the top's ports the decoder of the whole block decides. -/
theorem step_of_decodeTop {s : State} {w : StimulusWord} {i : Instr} (h : s.presented = .stimulus w)
    (hd : decodeTop s.phase w = .ok i) : step s = exec i s.taken := by
  simp [step, decodePresented, h, hd]

/-- With `rst == 1` the step is RESET (R194). -/
theorem step_of_rst {s : State} {w : StimulusWord} (h : s.presented = .stimulus w) (hr : w.rst = true) :
    step s = exec .reset s.taken :=
  step_of_decodeTop h (by simp [decodeTop, hr])

/-- In a busy phase with `rst == 0` the step is that phase's micro-operation (R171). -/
theorem step_of_busy {s : State} {w : StimulusWord} {p : Phase} {i : Instr} (h : s.presented = .stimulus w)
    (hr : w.rst = false) (hp : s.phase = p.code) (hm : p.microOp = some i) : step s = exec i s.taken :=
  step_of_decodeTop h (by simp [decodeTop, hr, hp, hm])

/-- At rest with `rst == 0` the step is the command (R171). -/
theorem step_of_atRest {s : State} {w : StimulusWord} (h : s.presented = .stimulus w) (hr : w.rst = false)
    (hp : s.atRest = true) : step s = exec (decodeStimulus w) s.taken := by
  rcases (State.atRest_iff s).1 hp with hp | hp <;>
    exact step_of_decodeTop h (by simp [decodeTop, hr, hp, Phase.microOp])

/-- All that a step with a next state can be: a unit operation; RESET; the micro-operation of KS, INIT, ROUND or FINAL;
a command at rest. -/
theorem step_cases {s t : State} (h : step s = .next t) :
    (∃ u, s.presented = .unit u ∧ exec (decodeUnit u) s.taken = .next t) ∨
    ∃ w, s.presented = .stimulus w ∧
      ((w.rst = true ∧ t = s.taken.loseData.resetControl) ∨
       (w.rst = false ∧ s.phase = Phase.ks.code ∧ exec .ksWord s.taken = .next t) ∨
       (w.rst = false ∧ s.phase = Phase.init.code ∧ exec .encInit s.taken = .next t) ∨
       (w.rst = false ∧ s.phase = Phase.round.code ∧ exec .encRound s.taken = .next t) ∨
       (w.rst = false ∧ s.phase = Phase.final.code ∧ exec .encFinal s.taken = .next t) ∨
       (w.rst = false ∧ s.atRest = true ∧ exec (decodeStimulus w) s.taken = .next t)) := by
  cases hp : s.presented with
  | unit u => exact .inl ⟨u, rfl, by rw [← step_of_unit hp]; exact h⟩
  | stimulus w =>
    refine .inr ⟨w, rfl, ?_⟩
    simp only [step, hp, decodePresented] at h
    rcases decodeTop_cases s.phase w with ⟨hr, hd⟩ | ⟨hr, p, i, hc, hm, hd⟩ | ⟨hr, ⟨p, hc, hm⟩, hd⟩ | ⟨_, _, hd⟩ <;>
      rw [hd] at h
    · left
      simp only [exec, execReset, Host.Outcome.next.injEq] at h
      exact ⟨hr, h.symm⟩
    · right
      cases p <;> simp only [Phase.microOp, Option.some.injEq, reduceCtorEq] at hm <;> subst hm
      · exact .inl ⟨hr, hc, h⟩
      · exact .inr (.inl ⟨hr, hc, h⟩)
      · exact .inr (.inr (.inl ⟨hr, hc, h⟩))
      · exact .inr (.inr (.inr (.inl ⟨hr, hc, h⟩)))
    · refine .inr (.inr (.inr (.inr (.inr ⟨hr, ?_, h⟩))))
      cases p <;> simp only [Phase.microOp, reduceCtorEq] at hm <;> simp [State.atRest, hc, Phase.busy]
    · simp at h

/-- The command of a stimulus word with `rst == 0`, by `cmd` (R72). -/
theorem decodeStimulus_cases {w : StimulusWord} (hr : w.rst = false) :
    (w.cmd = 0#2 ∧ decodeStimulus w = .nop) ∨ (w.cmd = 1#2 ∧ decodeStimulus w = .expandKey w.keyLen w.keyIn) ∨
      (w.cmd = 2#2 ∧ decodeStimulus w = .encryptBlock w.ptIn) ∨ (w.cmd = 3#2 ∧ decodeStimulus w = .rsvd3) := by
  have h : ∀ c : BitVec 2, c = 0#2 ∨ c = 1#2 ∨ c = 2#2 ∨ c = 3#2 := by decide
  rcases h w.cmd with c | c | c | c <;> simp [decodeStimulus, hr, c]

/-- All that a command at rest can do (R161, R163, R164): nothing; KS_LOAD; the exception; loading a plaintext. -/
theorem exec_command_cases {s t : State} {w : StimulusWord} (hr : w.rst = false) (ha : s.atRest = true)
    (h : exec (decodeStimulus w) s = .next t) :
    (t = s ∧ (w.cmd = 0#2 ∨ w.cmd = 3#2 ∨ (w.cmd = 2#2 ∧ s.keyValid = false))) ∨
    (w.cmd = 1#2 ∧ w.keyLen = 16#8 ∧
      t = ((((s.loadKeyWords w.keyIn).setKi 4#6).setKeyValid false).setErr false).setPhase Phase.ks.code) ∨
    (w.cmd = 1#2 ∧ w.keyLen ≠ 16#8 ∧ t = s.raiseInvalidKeyLength) ∨
    (w.cmd = 2#2 ∧ s.keyValid = true ∧ t = (s.setSt (loadState w.ptIn)).setPhase Phase.init.code) := by
  rcases decodeStimulus_cases hr with ⟨c, e⟩ | ⟨c, e⟩ | ⟨c, e⟩ | ⟨c, e⟩ <;> rw [e] at h
  · simp only [exec, execNop, Host.Outcome.next.injEq] at h
    exact .inl ⟨h.symm, .inl c⟩
  · simp only [exec, execExpandKey, State.acceptAtRest_of_atRest _ ha, Host.Outcome.next.injEq] at h
    rcases s.ksLoad_cases w.keyLen w.keyIn with ⟨a, b⟩ | ⟨a, b⟩ <;> rw [b] at h
    · exact .inr (.inl ⟨c, a, h.symm⟩)
    · exact .inr (.inr (.inl ⟨c, a, h.symm⟩))
  · simp only [exec, execEncryptBlock, State.acceptAtRest_of_atRest _ ha, Host.Outcome.next.injEq] at h
    rcases s.encryptAccept_cases w.ptIn with ⟨a, b⟩ | ⟨a, b⟩ <;> rw [b] at h
    · exact .inr (.inr (.inr ⟨c, a, h.symm⟩))
    · exact .inl ⟨h.symm, .inr (.inr ⟨c, a⟩)⟩
  · simp only [exec, execRsvd3, Host.Outcome.next.injEq] at h
    exact .inl ⟨h.symm, .inr (.inl c)⟩

/-- A unit operation changes module outputs and the counter of free values, nothing else (R33). -/
theorem exec_unit_cases {u : UnitInput} {s t : State} (h : exec (decodeUnit u) s = .next t) :
    ∃ ports n, t = (s.setDraws n).setUnit ports := by
  cases u with
  | rconW v =>
    simp only [decodeUnit, exec, execRconw] at h
    split at h <;> simp only [Host.Outcome.next.injEq] at h <;> subst h
    · exact ⟨_, s.draws, rfl⟩
    · exact ⟨_, _, rfl⟩
  | _ =>
    simp only [decodeUnit, exec, execGfmul, execSbox, execSubbytes, execShiftrows, execMixcolumns, execAddroundkey,
      execRotword, execSubword, Host.Outcome.next.injEq] at h
    subst h
    exact ⟨_, s.draws, rfl⟩

/-- A unit operation always completes. -/
theorem exec_unit_completes (u : UnitInput) (s : State) : ∃ t, exec (decodeUnit u) s = .next t := by
  cases u with
  | rconW v =>
    simp only [decodeUnit, exec, execRconw]
    split <;> exact ⟨_, rfl⟩
  | _ => exact ⟨_, rfl⟩

/-! ### Inputs are parameters -/

/-- No operation reads or writes the lines to come: exec commutes with replacing them (R14). -/
theorem exec_setPending {i : Instr} {s t : State} (l : List HostLine) (h : exec i s = .next t) :
    exec i (s.setPending l) = .next (t.setPending l) := by
  have accept (u u' : State) (e : u' = u.setPending l) (h : s.acceptAtRest u = .next t) :
      (s.setPending l).acceptAtRest u' = .next (t.setPending l) := by
    subst e
    unfold State.acceptAtRest at h ⊢
    rw [State.setPending_phase]
    cases hp : Phase.ofCode s.phase with
    | none => simp [hp] at h
    | some p =>
      simp only [hp] at h ⊢
      split at h <;> rename_i hb <;> simp only [hb, if_true, Bool.false_eq_true, if_false] <;> cases h <;> rfl
  have read (sel : BitVec 4) : (s.setPending l).readRoundKey sel =
      ((s.readRoundKey sel).1, (s.readRoundKey sel).2.setPending l) := by
    rcases s.readRoundKey_cases sel with ⟨a, b⟩ | ⟨a, b⟩ <;> rw [b] <;>
      rcases (s.setPending l).readRoundKey_cases sel with ⟨c, d⟩ | ⟨c, d⟩ <;> rw [d]
    · rfl
    · exact absurd (c.symm.trans a) (by decide)
    · exact absurd (c.symm.trans a) (by decide)
    · rfl
  cases i with
  | expandKey n key =>
    refine accept _ _ ?_ h
    rcases s.ksLoad_cases n key with ⟨a, b⟩ | ⟨a, b⟩ <;>
      rcases (s.setPending l).ksLoad_cases n key with ⟨c, d⟩ | ⟨c, d⟩ <;> rw [b, d]
    · rfl
    · exact absurd a c
    · exact absurd c a
    · rfl
  | encryptBlock pt =>
    refine accept _ _ ?_ h
    unfold State.encryptAccept
    rw [State.setPending_keyValid]
    split <;> rfl
  | rconw j =>
    simp only [exec, execRconw] at h ⊢
    split at h <;> rename_i hj <;> simp only [hj, if_true, Bool.false_eq_true, if_false] <;> cases h <;> rfl
  | ksWord =>
    simp only [exec, execKsWord] at h ⊢
    split at h <;> rename_i hk
    · rw [if_pos (show 4 ≤ (s.setPending l).ki.toNat ∧ (s.setPending l).ki.toNat ≤ 43 from hk), State.setPending_ki]
      cases h
      rcases s.ksWordWrite_cases s.ki.toNat with ⟨a, b⟩ | ⟨a, b⟩ <;>
        rcases (s.setPending l).ksWordWrite_cases s.ki.toNat with ⟨c, d⟩ | ⟨c, d⟩ <;> rw [b, d]
      · rfl
      · exact absurd a c
      · exact absurd c a
      · rfl
    · cases h
  | encInit =>
    simp only [exec, execEncInit, read] at h ⊢
    cases h
    rfl
  | encRound =>
    simp only [exec, execEncRound, read, State.setPending_rnd] at h ⊢
    cases h
    by_cases h9 : s.rnd = 9#4
    · rw [if_pos h9, if_pos h9]
      rfl
    · rw [if_neg h9, if_neg h9]
      rfl
  | encFinal =>
    simp only [exec, execEncFinal, read] at h ⊢
    cases h
    rfl
  | _ =>
    cases h
    rfl

/-- What a step does to the block is a function of the block's state and the inputs presented in it (R14, R31), with
the model's counter of free values: two states that agree on these step alike, whatever else they hold. -/
theorem step_of_same_inputs {s s' t : State} (hc : s'.toCoreState = s.toCoreState) (hd : s'.draws = s.draws)
    (hp : s'.presented = s.presented) (h : step s = .next t) :
    step s' = .next (t.setPending s'.taken.pending) := by
  have ht : s'.taken = s.taken.setPending s'.taken.pending :=
    State.eq_of_fields (congrArg CoreState.st hc) (congrArg CoreState.rk hc) (congrArg CoreState.phase hc)
      (congrArg CoreState.rnd hc) (congrArg CoreState.ki hc) (congrArg CoreState.keyValid hc)
      (congrArg CoreState.err hc) rfl rfl hd
  unfold step at h ⊢
  rw [hp, show s'.phase = s.phase from congrArg CoreState.phase hc]
  cases hi : decodePresented s.phase s.presented with
  | ok i =>
    rw [hi] at h
    rw [ht]
    exact exec_setPending _ h
  | error e =>
    rw [hi] at h
    cases h

end Sys2Proof.Machine
end

