-- ==== Sys2Proof/Tests/Slice0.lean ====
section
/-! SUPPORT. Named tests: the checks of WellFormed, words written out from the spec's encodings, at most two one-step
tests per operation with the vectors of `95_test_vectors.md`, and for every obligation with hypotheses a witness that
meets them. -/

namespace Sys2Proof.Tests

-- One theorem after the other: each check in the kernel waits on a thread of its own otherwise.
set_option Elab.async false

open Sys2Proof.Machine

/-! ### WellFormed -/

/-- R75: the RCON index is legal in 0..9; the first and the last illegal one are refused. -/
theorem test_wellFormed_rconw : (Instr.rconw 10#4).wellFormed = false ∧ (Instr.rconw 15#4).wellFormed = false ∧
    (Instr.rconw 9#4).wellFormed = true := by decide

/-! ### Decoding: words written out from the encodings of `30_encoding.md` -/

/-- R75, format UNIT, the vectors of P5: the first operand stands in the upper bits. -/
theorem test_decode_unit_bytes :
    decode (.unit (.galoisFieldMult 0b0000001011010100#16)) = .ok (.gfmul 0x02#8 0xd4#8) ∧
    decode (.unit (.aes128Sbox 0b00011001#8)) = .ok (.sbox 0x19#8) ∧
    decode (.unit (.rotWord 0x09cf4f3c#32)) = .ok (.rotword 0x09cf4f3c#32) ∧
    decode (.unit (.subWord 0xcf4f3c09#32)) = .ok (.subword 0xcf4f3c09#32) ∧
    decode (.unit (.rconW 0b1001#4)) = .ok (.rconw 9#4) := by decide

/-- R75, format UNIT, 128 and 256 bits, the vectors of P5. -/
theorem test_decode_unit_blocks :
    decode (.unit (.aesSubbytes 0x193de3bea0f4e22b9ac68d2ae9f84808#128)) =
      .ok (.subbytes 0x193de3bea0f4e22b9ac68d2ae9f84808#128) ∧
    decode (.unit (.aesShiftrows 0xd42711aee0bf98f1b8b45de51e415230#128)) =
      .ok (.shiftrows 0xd42711aee0bf98f1b8b45de51e415230#128) ∧
    decode (.unit (.aesMixcolumns 0xd4bf5d30e0b452aeb84111f11e2798e5#128)) =
      .ok (.mixcolumns 0xd4bf5d30e0b452aeb84111f11e2798e5#128) ∧
    decode (.unit (.aesAddroundkey 0x046681e5e0cb199a48f8d37a2806264ca0fafe1788542cb123a339392a6c7605#256)) =
      .ok (.addroundkey 0x046681e5e0cb199a48f8d37a2806264c#128 0xa0fafe1788542cb123a339392a6c7605#128) := by decide

/-- R73, formats CMD and PIN: `ctl` bit by bit, `{rst, cmd, key_len}`; unsampled bits set where the row has x. -/
theorem test_decode_ctl :
    decode (.stimulus ⟨0b00011111111#11, 5#128, 6#128⟩) = .ok .nop ∧
    decode (.stimulus ⟨0b00100010000#11, 5#128, 6#128⟩) = .ok (.expandKey 16#8 5#128) ∧
    decode (.stimulus ⟨0b01011111111#11, 5#128, 6#128⟩) = .ok (.encryptBlock 6#128) ∧
    decode (.stimulus ⟨0b01100000001#11, 5#128, 6#128⟩) = .ok .rsvd3 ∧
    decode (.stimulus ⟨0b10100010000#11, 5#128, 6#128⟩) = .ok .reset := by decide

/-- R74, format STEP: the code of `PHASE`; the rest phases and the codes that are no phase are refused by name. -/
theorem test_decode_phase :
    decode (.phase 0b001#3) = .ok .ksWord ∧ decode (.phase 0b010#3) = .ok .encInit ∧
    decode (.phase 0b011#3) = .ok .encRound ∧ decode (.phase 0b100#3) = .ok .encFinal ∧
    decode (.phase 0b000#3) = .error (.restPhase 0#3) ∧ decode (.phase 0b101#3) = .error (.restPhase 5#3) ∧
    decode (.phase 0b110#3) = .error (.unreachablePhase 6#3) ∧
    decode (.phase 0b111#3) = .error (.unreachablePhase 7#3) := by decide

/-- R73: the 267 bits of an EXPAND_KEY with `key_len = 0x0f`, `key_in = 1`, `pt_in = 2`, written out. -/
theorem test_stimulus_bits :
    StimulusWord.ofBits
      0x10f0000000000000000000000000000000100000000000000000000000000000002#267 =
      ⟨0b00100001111#11, 1#128, 2#128⟩ := by decide +kernel

/-! ### Small states -/

/-- The key of V5. -/
def key : Block := 0x000102030405060708090a0b0c0d0e0f#128

/-- The plaintext of V5. -/
def plain : Block := 0x00112233445566778899aabbccddeeff#128

/-- The words 0..3 of V5's key. -/
def loaded : State := (((State.reset.loadKeyWords key).setKi 4#6).setKeyValid false).setPhase Phase.ks.code

/-- At rest with a valid schedule, that of V5's key. -/
def keyed : State := ((State.reset.setRk (scheduleOfList (expandKey key))).setKi 44#6).setKeyValid true

/-- The last step of the expansion of V5's key. -/
def lastWord : State := ((keyed.setKi 43#6).setKeyValid false).setPhase Phase.ks.code

/-- In the phase `p` of an encryption, `ST` holding `m` and `RND` holding `r`. -/
def encrypting (p : Phase) (r : BitVec 4) (m : Block) : State :=
  ((keyed.setPhase p.code).setRnd r).setSt (loadState m)

/-- After V5's encryption. -/
def finished : State := encrypting .done 10#4 0x69c4e0d86a7b0430d8cdb78070b4c55a#128

/-- A line under which the step is a core step with these inputs. -/
def stimulus (ctl : BitVec 11) (keyIn ptIn : Block) : HostLine := .stimulus ⟨ctl, keyIn, ptIn⟩

/-! ### One step of each operation, values of `95_test_vectors.md` -/

/-- T1: a reduction, and the general case. -/
theorem test_gfmul : completesWith (exec (.gfmul 0x57#8 0x83#8) State.reset) (fun t => t.unit.gfmulP == some 0xc1#8) ∧
    completesWith (exec (.gfmul 0x80#8 0x1b#8) State.reset) (fun t => t.unit.gfmulP == some 0x2f#8) := by decide

/-- T2: the nibble order. -/
theorem test_sbox : completesWith (exec (.sbox 0x0f#8) State.reset) (fun t => t.unit.sboxY == some 0x76#8) ∧
    completesWith (exec (.sbox 0xf0#8) State.reset) (fun t => t.unit.sboxY == some 0x8c#8) := by decide

/-- V1. -/
theorem test_subbytes :
    completesWith (exec (.subbytes 0x193de3bea0f4e22b9ac68d2ae9f84808#128) State.reset)
      (fun t => t.unit.subbytesOut == some 0xd42711aee0bf98f1b8b45de51e415230#128) := by decide +kernel

/-- T3: the index block shows the permutation. -/
theorem test_shiftrows :
    completesWith (exec (.shiftrows 0x000102030405060708090a0b0c0d0e0f#128) State.reset)
      (fun t => t.unit.shiftrowsOut == some 0x00050a0f04090e03080d02070c01060b#128) := by decide +kernel

/-- V3. -/
theorem test_mixcolumns :
    completesWith (exec (.mixcolumns 0xdb135345f20a225c010101012d26314c#128) State.reset)
      (fun t => t.unit.mixcolumnsOut == some 0x8e4da1bc9fdc589d010101014d7ebdf8#128) := by decide +kernel

/-- T3, T6 round 1. -/
theorem test_addroundkey :
    completesWith (exec (.addroundkey 0x5f72641557f5bc92f7be3b291db9f91a#128 0xd6aa74fdd2af72fadaa678f1d6ab76fe#128)
      State.reset) (fun t => t.unit.addroundkeyOut == some 0x89d810e8855ace682d1843d8cb128fe4#128) := by decide +kernel

/-- Section 2.4: the top byte wraps to the bottom. -/
theorem test_rotword : completesWith (exec (.rotword 0x80000001#32) State.reset)
      (fun t => t.unit.rotwordOut == some 0x00000180#32) ∧
    completesWith (exec (.rotword 0x01020304#32) State.reset) (fun t => t.unit.rotwordOut == some 0x02030401#32) := by
  decide

/-- Section 2.4: byte positions are kept. -/
theorem test_subword : completesWith (exec (.subword 0x00010203#32) State.reset)
    (fun t => t.unit.subwordOut == some 0x637c777b#32) := by decide +kernel

/-- Section 2.4: the last index. -/
theorem test_rconw : completesWith (exec (.rconw 9#4) State.reset) (fun t => t.unit.rconwOut == some 0x36000000#32) := by
  decide

/-- R78: an index outside the table runs; only the counter of free values tells. -/
theorem test_rconw_outside : completesWith (exec (.rconw 10#4) State.reset) (fun t => t.draws == 1) := by decide

/-- R162: `done` and `ct_out` persist under NOP (P2, line 11). -/
theorem test_nop : completesWith (exec .nop finished)
    (fun t => t.ctOut == some 0x69c4e0d86a7b0430d8cdb78070b4c55a#128) := by decide +kernel

/-- P1, step 2. -/
theorem test_expandKey : completesWith (exec (.expandKey 16#8 key) finished)
    (fun t => rkWord t.rk 3 == 0x0c0d0e0f#32 && t.phase == 1#3 && t.ki == 4#6 && !t.keyValid && !t.err) := by
  decide +kernel

/-- P3, line 14: a failing EXPAND_KEY from DONE. -/
theorem test_expandKey_invalidLength : completesWith (exec (.expandKey 0#8 key) finished)
    (fun t => t.outputs == ⟨false, false, false, true, none⟩ && t.ki == 44#6 && rkWord t.rk 43 == 0x4d2b30c5#32) := by
  decide +kernel

/-- P1, step 43. -/
theorem test_encryptBlock : completesWith (exec (.encryptBlock plain) keyed)
    (fun t => storeState t.st == plain && t.phase == 2#3) := by decide +kernel

/-- P3, line 5: no key, no effect. -/
theorem test_encryptBlock_noKey : completesWith (exec (.encryptBlock plain) (State.reset.setErr true))
    (fun t => t.outputs == ⟨false, false, false, true, none⟩) := by decide +kernel

/-- P4, line 6. -/
theorem test_rsvd3 : completesWith (exec .rsvd3 keyed) (fun t => t.outputs == ⟨false, true, false, false, none⟩) := by
  decide +kernel

/-- P1, step 3 (T4). -/
theorem test_ksWord_first : completesWith (exec .ksWord loaded)
    (fun t => rkWord t.rk 4 == 0xd6aa74fd#32 && t.ki == 5#6 && t.phase == 1#3 && !t.keyValid) := by decide +kernel

/-- P1, step 42. -/
theorem test_ksWord_last : completesWith (exec .ksWord lastWord)
    (fun t => rkWord t.rk 43 == 0x4d2b30c5#32 && t.ki == 44#6 && t.phase == 0#3 && t.keyValid) := by decide +kernel

/-- P1, step 44. -/
theorem test_encInit : completesWith (exec .encInit (encrypting .init 1#4 plain))
    (fun t => storeState t.st == 0x00102030405060708090a0b0c0d0e0f0#128 && t.rnd == 1#4 && t.phase == 3#3) := by
  decide +kernel

/-- P1, step 45. -/
theorem test_encRound_first :
    completesWith (exec .encRound (encrypting .round 1#4 0x00102030405060708090a0b0c0d0e0f0#128))
      (fun t => storeState t.st == 0x89d810e8855ace682d1843d8cb128fe4#128 && t.rnd == 2#4 && t.phase == 3#3) := by
  decide +kernel

/-- P1, step 53. -/
theorem test_encRound_last :
    completesWith (exec .encRound (encrypting .round 9#4 0xfde3bad205e5d0d73547964ef1fe37f1#128))
      (fun t => storeState t.st == 0xbd6e7c3df2b5779e0b61216e8b10b689#128 && t.rnd == 10#4 && t.phase == 4#3) := by
  decide +kernel

/-- P1, step 54. -/
theorem test_encFinal :
    completesWith (exec .encFinal (encrypting .final 10#4 0xbd6e7c3df2b5779e0b61216e8b10b689#128))
      (fun t => t.ctOut == some 0x69c4e0d86a7b0430d8cdb78070b4c55a#128 && t.rnd == 10#4) := by decide +kernel

/-- R211: the control state after RESET in mid-encryption (P4, line 9). -/
theorem test_reset : completesWith (exec .reset (encrypting .round 3#4 plain))
    (fun t => t.outputs == ⟨false, false, false, false, none⟩) := by decide +kernel

/-! ### The pure known answers -/

/-- V4: the two words the source prints, and the length. -/
theorem test_V4 : (expandKey 0x2b7e151628aed2a6abf7158809cf4f3c#128)[4]? = some 0xa0fafe17#32 ∧
    (expandKey 0x2b7e151628aed2a6abf7158809cf4f3c#128)[43]? = some 0xb6630ca6#32 ∧
    (expandKey 0x2b7e151628aed2a6abf7158809cf4f3c#128).length = 44 := by decide +kernel

/-- V5. -/
theorem test_V5 : Sys2Proof.Machine.encryptBlock (scheduleOfList (expandKey key)) plain =
    0x69c4e0d86a7b0430d8cdb78070b4c55a#128 := by decide +kernel

/-! ### The step -/

/-- R194: `rst` together with a failing EXPAND_KEY is RESET; `ERR` ends 0. -/
theorem test_step_reset_priority :
    completesWith (step (keyed.setPending [stimulus 0x50f#11 key 0#128])) (fun t => !t.err && !t.keyValid) := by
  decide +kernel

/-- P4, line 2: a command presented while busy is ignored, the step is KS_WORD. -/
theorem test_step_busy : completesWith (step (loaded.setPending [stimulus 0x103#11 plain 0#128]))
    (fun t => rkWord t.rk 4 == 0xd6aa74fd#32 && !t.err && t.pending == []) := by decide +kernel

/-- R80: a WAIT that waits stays; one that does not is passed over in the same step. -/
theorem test_step_wait :
    completesWith (step (loaded.setPending [.wait .keyValid])) (fun t => t.pending == [.wait .keyValid]) ∧
    completesWith (step (keyed.setPending [.wait .keyValid, stimulus 0x200#11 0#128 plain]))
      (fun t => t.phase == 2#3 && t.pending == []) := by decide +kernel

/-- R28, R31: a module shows its output in the step that drives it and holds nothing afterwards. -/
theorem test_step_releases_units :
    completesWith (step (keyed.setPending [.unit (.aes128Sbox 0x19#8)])) (fun t => t.unit.sboxY == some 0xd4#8 &&
      completesWith (step t) (fun u => u.unit == UnitPorts.undriven)) := by decide +kernel

/-- R29: the round key asked for in each step of an encryption. -/
theorem test_rkSel : (encrypting .init 1#4 plain).rkSel = 0#4 ∧ (encrypting .round 9#4 plain).rkSel = 9#4 ∧
    (encrypting .final 10#4 plain).rkSel = 10#4 := by decide

/-- A row of each format, placed after reset, is what the next step performs. -/
theorem test_withFetchWord :
    completesWith (step (State.reset.withFetchWord 16 0x10f)) (fun t => t.err) ∧
    completesWith (step (State.reset.withFetchWord 8 1)) (fun t => t.ki == 5#6) ∧
    completesWith (step (State.reset.withFetchWord 8 4)) (fun t => t.done) ∧
    completesWith (step (State.reset.withFetchWord 4 9)) (fun t => t.unit.rconwOut == some 0x36000000#32) := by
  decide +kernel

/-- R80, R174: an assertion of P1, and the end of its run. -/
theorem test_expect : (Expect.ctOut 0x69c4e0d86a7b0430d8cdb78070b4c55a#128).holds finished.outputs ∧
    (Expect.keyValid true).holds finished.outputs ∧ (finished.setPending [.wait .done]).runEnded := by
  decide +kernel

/-! ### Witnesses: states that meet the invariants -/

/-- The schedule of V5's key obeys the recurrence. -/
theorem keyed_schedule : ScheduleUpTo keyed.rk 44 := by
  have h : ∀ i < 44, 4 ≤ i →
      rkWord keyed.rk i = rkWord keyed.rk (i - 4) ^^^ ksTemp i (rkWord keyed.rk (i - 1)) := by decide +kernel
  exact fun i h4 hn => h i hn h4

theorem witness_inv_loaded : loaded.Inv := by
  constructor <;> first
    | decide
    | exact fun h => absurd h (by decide)
    | exact fun _ i h4 hn => absurd (show i < 4 from hn) (by omega)

theorem witness_inv_lastWord : lastWord.Inv := by
  constructor <;> first
    | decide
    | exact fun h => absurd h (by decide)
    | exact fun _ i h4 hn => keyed_schedule i h4 (Nat.lt_succ_of_lt hn)

theorem witness_inv_keyed : keyed.Inv := by
  constructor <;> first | decide | exact fun h => absurd h (by decide) | exact fun _ => keyed_schedule

/-- Every phase of an encryption is met, with `RND` at the ends of its range. -/
theorem witness_inv_encrypting : (encrypting .init 1#4 plain).Inv ∧ (encrypting .round 1#4 plain).Inv ∧
    (encrypting .round 9#4 plain).Inv ∧ (encrypting .final 10#4 plain).Inv ∧ finished.Inv := by
  refine ⟨?_, ?_, ?_, ?_, ?_⟩ <;> constructor <;>
    first | decide | exact fun h => absurd h (by decide) | exact fun _ => keyed_schedule

theorem witness_inv_error : (State.reset.setErr true).Inv := by
  constructor <;> first | decide | exact fun h => absurd h (by decide)

/-- A completed operation has its next state. -/
theorem exists_of_completesWith {r : Result} {p : State → Bool} (h : completesWith r p) :
    ∃ t, r = .next t ∧ p t = true := by
  cases r with
  | next t => exact ⟨t, rfl, h⟩
  | fault f => cases h
  | refused f => cases h

/-! ### Witnesses: the hypotheses of the obligations, clause by clause -/

theorem witness_StepPerformsDecodedOperation :
    decodePresented State.reset.phase State.reset.presented = .ok .nop ∧
    decodePresented (State.reset.setPhase 6#3).phase (State.reset.setPhase 6#3).presented =
      .error (.unreachablePhase 6#3) := ⟨rfl, rfl⟩

theorem witness_StepIsTheTableOfR171 :
    (State.reset.setPending [stimulus 0x400#11 0#128 0#128]).presents ⟨0x400#11, 0#128, 0#128⟩ ∧
    (loaded.presents StimulusWord.idle ∧ loaded.phase = Phase.ks.code) ∧
    ((encrypting .init 1#4 plain).presents StimulusWord.idle ∧ (encrypting .final 10#4 plain).presents StimulusWord.idle ∧
      (encrypting .round 9#4 plain).presents StimulusWord.idle) ∧
    (State.reset.presents StimulusWord.idle ∧ finished.presents StimulusWord.idle ∧ StimulusWord.idle.cmd = 0#2) ∧
    ((keyed.setPending [stimulus 0x110#11 key 0#128]).presents ⟨0x110#11, key, 0#128⟩ ∧
      (⟨0x110#11, key, 0#128⟩ : StimulusWord).cmd = 1#2) ∧
    ((finished.setPending [stimulus 0x200#11 0#128 plain]).presents ⟨0x200#11, 0#128, plain⟩ ∧
      (⟨0x200#11, 0#128, plain⟩ : StimulusWord).cmd = 2#2) ∧
    ((keyed.setPending [stimulus 0x300#11 0#128 0#128]).presents ⟨0x300#11, 0#128, 0#128⟩ ∧
      (⟨0x300#11, 0#128, 0#128⟩ : StimulusWord).cmd = 3#2) :=
  ⟨rfl, ⟨rfl, rfl⟩, ⟨rfl, rfl, rfl⟩, ⟨rfl, rfl, rfl⟩, ⟨rfl, rfl⟩, ⟨rfl, rfl⟩, ⟨rfl, rfl⟩⟩

theorem witness_FetchTakesTheNextLine :
    State.reset.pending = [] ∧
    (keyed.setPending [stimulus 1#11 key plain]).pending = [.stimulus ⟨1#11, key, plain⟩] ∧
    (keyed.setPending [.unit (.rconW 0#4)]).pending = [.unit (.rconW 0#4)] ∧
    ((loaded.setPending [.wait .keyValid]).pending = [.wait .keyValid] ∧
      WaitFor.keyValid.waiting (loaded.setPending [.wait .keyValid]) = true) ∧
    WaitFor.done.waiting (finished.setPending [.wait .done]) = false ∧
    WaitFor.idle.waiting (loaded.setPending [.wait .idle]) = true := by decide +kernel

theorem witness_CommandRowsByMatchAndMask :
    (0x7ff#11 &&& 0x400#11 = 0x400#11) ∧ (0x0ff#11 &&& 0x700#11 = 0x000#11) ∧ (0x110#11 &&& 0x700#11 = 0x100#11) ∧
    (0x2ff#11 &&& 0x700#11 = 0x200#11) ∧ (0x3ff#11 &&& 0x700#11 = 0x300#11) := by decide

theorem witness_BlockDecoderReadsEncodings :
    (encode .reset = .stimulus ⟨0x400#11, 0#128, 0#128⟩ ∧ (⟨0x400#11, 0#128, 0#128⟩ : StimulusWord).rst = true) ∧
    (encode .nop = .stimulus StimulusWord.idle ∧ StimulusWord.idle.rst = false) ∧
    encode .ksWord = .phase Phase.ks.code ∧ encode .encFinal = .phase Phase.final.code := by decide

theorem witness_UnreachablePhaseHasNoStep :
    (State.reset.setPhase 6#3).presents StimulusWord.idle ∧ (State.reset.setPhase 7#3).presents StimulusWord.idle ∧
    StimulusWord.idle.rst = false := ⟨rfl, rfl, rfl⟩

/-- T1: the inverse pairs 53, ca and 02, 8d. -/
theorem witness_GfMulLaws : (0x53#8 : Byte) ≠ 0#8 ∧ gfMul 0x53#8 0xca#8 = 0x01#8 ∧ (0x02#8 : Byte) ≠ 0#8 ∧
    gfMul 0x02#8 0x8d#8 = 0x01#8 := by decide

/-- T1, T2: both premises at `x = 00` with `v = 00` and at `x = 53` with `v = ca`; the entries are 63 and ed. -/
theorem witness_SboxGeneratingRule :
    ((0x53#8 : Byte) = 0#8 → (0xca#8 : Byte) = 0#8) ∧ ((0x53#8 : Byte) ≠ 0#8 → gfMul 0x53#8 0xca#8 = 0x01#8) ∧
    ((0x00#8 : Byte) ≠ 0#8 → gfMul 0x00#8 0x00#8 = 0x01#8) ∧ sboxByte 0x53#8 = 0xed#8 ∧ sboxByte 0x00#8 = 0x63#8 := by
  decide

/-- R116: the ends of the table's generating rule, j = 0 and j = 8. -/
theorem witness_RoundConstantWords : rconTable[0 + 1]? = some 0x02#8 ∧ rconTable[8]? = some 0x1b#8 ∧
    rconTable[8 + 1]? = some 0x36#8 ∧ gfMul 0x02#8 0x1b#8 = 0x36#8 := by decide

/-- R56: the first and the last cell. -/
theorem witness_LoadStoreLayout : cell (loadState key) 0 0 = 0x00#8 ∧ cell (loadState key) 3 3 = 0x0f#8 ∧
    cell (loadState key) 1 0 = 0x01#8 ∧ blockByte key (3 + 4 * 3) = 0x0f#8 := by decide +kernel

/-- R58 at k = 10 and at the last row and column: `RK[43] = 4d2b30c5`. -/
theorem witness_RoundKeyLayout : blockByte (roundKey keyed.rk 10) (3 + 4 * 3) = 0xc5#8 ∧
    cell (loadState (roundKey keyed.rk 10)) 0 3 = 0x4d#8 ∧
    (roundKey keyed.rk 10).extractLsb' (96 - 32 * 3) 32 = 0x4d2b30c5#32 ∧
    (roundKey keyed.rk 0).extractLsb' 96 32 = 0x00010203#32 := by decide +kernel

/-- T2: the State of sixteen 52. -/
theorem witness_SubBytesByCells : ∀ r c, cell (loadState 0x52525252525252525252525252525252#128) r c = 0x52#8 := by
  have h : loadState 0x52525252525252525252525252525252#128 =
      ⟨⟨0x52#8, 0x52#8, 0x52#8, 0x52#8⟩, ⟨0x52#8, 0x52#8, 0x52#8, 0x52#8⟩, ⟨0x52#8, 0x52#8, 0x52#8, 0x52#8⟩,
        ⟨0x52#8, 0x52#8, 0x52#8, 0x52#8⟩⟩ := by decide
  intro r c
  rw [h]
  unfold cell matrixColumn columnByte
  split <;> split <;> rfl

/-- T3: the single byte at row 3, column 0 moves to column 1; row 0 stays; the last byte of the permutation. -/
theorem witness_ShiftRowsByCells :
    cell (shiftRows (loadState 0x000000ff000000000000000000000000#128)) 3 1 = 0xff#8 ∧
    cell (shiftRows (loadState key)) 0 3 = 0x0c#8 ∧ shiftSource.getD 15 0 = 11 ∧ shiftSource.length = 16 := by
  decide +kernel

/-- R124 at the first and the last cell: equal and unequal entries both occur. -/
theorem witness_RoundTransformProperties : cell (loadState key) 3 3 ≠ cell (loadState plain) 3 3 ∧
    cell (loadState key) 0 0 = cell (loadState plain) 0 0 := by decide +kernel

/-- T3: row 3 of the matrix, on the column db 13 53 45. -/
theorem witness_MixColumnsIsTheMatrix : cell (mixColumns (loadState 0xdb135345f20a225c010101012d26314c#128)) 3 0 = 0xbc#8 ∧
    mixEntry 3 0 = 0x03#8 ∧ mixEntry 3 3 = 0x02#8 ∧ mixEntry 0 0 = 0x02#8 := by decide +kernel

/-- R123 at k = 10, row 3, column 3. -/
theorem witness_AddRoundKeyIsXor :
    cell (addRoundKey (loadState 0#128) (loadState (roundKey keyed.rk 10))) 3 3 = 0xc5#8 := by decide +kernel

/-- R144: the ends of both index ranges (V5's key; P1). -/
theorem witness_ExpandKeyRecurrence : (expandKey key)[0]? = some 0x00010203#32 ∧ (expandKey key)[3]? = some 0x0c0d0e0f#32 ∧
    (expandKey key)[4]? = some 0xd6aa74fd#32 ∧ (expandKey key)[43]? = some 0x4d2b30c5#32 := by decide +kernel

/-- Rows and columns at their ends: byte 15 of the index block, through each transform module. -/
theorem witness_TransformUnitsComplete : blockByte key (3 + 4 * 3) = 0x0f#8 ∧ blockByte key (3 + 4 * ((3 + 3) % 4)) = 0x0b#8 ∧
    sboxByte 0x0f#8 = 0x76#8 := by decide +kernel

theorem witness_WordUnitsComplete : (9#4 : Nibble).toNat ≤ 9 ∧ (0#4 : Nibble).toNat ≤ 9 ∧ rconTable[9]? = some 0x36#8 ∧
    wordByte 0x01020304#32 3 = 0x04#8 := by decide

theorem witness_RconwOutsideTableCompletes : 10 ≤ (10#4 : Nibble).toNat ∧ 10 ≤ (15#4 : Nibble).toNat := by decide

theorem witness_UnitOperationsFrame :
    (∃ t, exec (.gfmul 0x57#8 0x83#8) keyed = .next t) ∧ (∃ t, exec (.sbox 0x19#8) keyed = .next t) ∧
    (∃ t, exec (.subbytes key) keyed = .next t) ∧ (∃ t, exec (.shiftrows key) keyed = .next t) ∧
    (∃ t, exec (.mixcolumns key) keyed = .next t) ∧ (∃ t, exec (.addroundkey key plain) keyed = .next t) ∧
    (∃ t, exec (.rotword 1#32) keyed = .next t) ∧ (∃ t, exec (.subword 1#32) keyed = .next t) ∧
    (∃ t, exec (.rconw 9#4) keyed = .next t) ∧ (∃ t, exec (.rconw 15#4) keyed = .next t) :=
  ⟨⟨_, rfl⟩, ⟨_, rfl⟩, ⟨_, rfl⟩, ⟨_, rfl⟩, ⟨_, rfl⟩, ⟨_, rfl⟩, ⟨_, rfl⟩, ⟨_, rfl⟩, ⟨_, rfl⟩, ⟨_, rfl⟩⟩

theorem witness_ExpandKeyLoadsTheKey : keyed.phase = Phase.idle.code ∧ finished.phase = Phase.done.code := ⟨rfl, rfl⟩

theorem witness_InvalidKeyLengthIsTaken : (0#8 : Byte) ≠ 16#8 ∧ (15#8 : Byte) ≠ 16#8 ∧ (17#8 : Byte) ≠ 16#8 ∧
    (255#8 : Byte) ≠ 16#8 ∧ State.reset.phase = Phase.idle.code ∧ finished.phase = Phase.done.code := by decide

theorem witness_EncryptBlockLoadsThePlaintext : (keyed.phase = Phase.idle.code ∧ keyed.keyValid = true) ∧
    finished.phase = Phase.done.code ∧ finished.keyValid = true := ⟨⟨rfl, rfl⟩, rfl, rfl⟩

theorem witness_UnacceptedCommandsChangeNothing :
    (State.reset.phase = Phase.idle.code ∧ State.reset.keyValid = false) ∧
    loaded.busy = true ∧ (encrypting .init 1#4 plain).busy = true ∧ (encrypting .round 9#4 plain).busy = true ∧
    (encrypting .final 10#4 plain).busy = true := by decide

theorem witness_ResetHasPriority :
    (loaded.setPending [stimulus 0x50f#11 key 0#128]).presents ⟨0x50f#11, key, 0#128⟩ ∧
    (⟨0x50f#11, key, 0#128⟩ : StimulusWord).rst = true := ⟨rfl, rfl⟩

/-- `KI` at both ends of its range, and inside it in a step without SubWord. -/
theorem witness_KsWordWritesOneWord :
    (loaded.ki = 4#6 ∧ 4 ≤ loaded.ki.toNat ∧ loaded.ki.toNat ≤ 43) ∧ (lastWord.ki = 43#6 ∧ lastWord.ki.toNat % 4 ≠ 0) ∧
    (lastWord.setKi 40#6).ki.toNat % 4 = 0 ∧ (lastWord.setKi 40#6).ki ≠ 43#6 := by decide +kernel

theorem witness_KsWordStopsOutsideTheSchedule :
    (loaded.setKi 3#6).ki.toNat < 4 ∧ 43 < (loaded.setKi 44#6).ki.toNat ∧ 43 < (loaded.setKi 63#6).ki.toNat := by decide

theorem witness_EncInitWhitens : (encrypting .init 1#4 plain).keyValid = true := rfl

theorem witness_EncRoundIsOneRound : (encrypting .round 1#4 plain).keyValid = true ∧
    1 ≤ (encrypting .round 1#4 plain).rnd.toNat ∧ (encrypting .round 1#4 plain).rnd ≠ 9#4 ∧
    (encrypting .round 9#4 plain).rnd.toNat ≤ 9 ∧ (encrypting .round 9#4 plain).rnd = 9#4 := by decide

theorem witness_EncFinalOmitsMixColumns : (encrypting .final 10#4 plain).keyValid = true := rfl

theorem witness_EncryptionStepsCompleteAnywhere : keyed.keyValid = true ∧ (10#4).toNat ≤ 10 ∧
    (keyed.readRoundKey 10#4).1 = 0x13111d7fe3944a17f307a78b4d2b30c5#128 ∧
    State.reset.rkOutSpecified 0#4 = false ∧ keyed.rkOutSpecified 11#4 = false := by decide +kernel

theorem witness_EveryStepKeepsInvariants : ∃ t, lastWord.Inv ∧ step lastWord = .next t := by
  have h : completesWith (step lastWord) (fun _ => true) := by decide +kernel
  obtain ⟨t, ht, -⟩ := exists_of_completesWith h
  exact ⟨t, witness_inv_lastWord, ht⟩

theorem witness_EveryInvariantStateSteps : loaded.Inv ∧ keyed.Inv ∧ finished.Inv :=
  ⟨witness_inv_loaded, witness_inv_keyed, witness_inv_encrypting.2.2.2.2⟩

/-- The busy phases, with the counters where the phase stays and where it changes. -/
theorem witness_PhaseTransitions_busy :
    (loaded.presents StimulusWord.idle ∧ loaded.ki.toNat ≤ 42 ∧ completesWith (step loaded) (fun t => t.phase == 1#3)) ∧
    ((loaded.setKi 42#6).ki.toNat ≤ 42 ∧ lastWord.ki = 43#6 ∧
      completesWith (step lastWord) (fun t => t.phase == 0#3)) ∧
    completesWith (step (encrypting .init 1#4 plain)) (fun t => t.phase == 3#3) ∧
    ((encrypting .round 8#4 plain).rnd.toNat ≤ 8 ∧
      completesWith (step (encrypting .round 8#4 plain)) (fun t => t.phase == 3#3)) ∧
    completesWith (step (encrypting .round 9#4 plain)) (fun t => t.phase == 4#3) ∧
    completesWith (step (encrypting .final 10#4 plain)) (fun t => t.phase == 5#3) := by
  refine ⟨⟨rfl, ?_⟩, ?_⟩ <;> decide +kernel

/-- The commands at rest, from IDLE and from DONE, and RESET from a busy phase. -/
theorem witness_PhaseTransitions_rest :
    completesWith (step keyed) (fun t => t.phase == 0#3) ∧ completesWith (step finished) (fun t => t.phase == 5#3) ∧
    completesWith (step (finished.setPending [stimulus 0x300#11 0#128 0#128])) (fun t => t.phase == 5#3) ∧
    completesWith (step (finished.setPending [stimulus 0x110#11 key 0#128])) (fun t => t.phase == 1#3) ∧
    completesWith (step (finished.setPending [stimulus 0x111#11 key 0#128])) (fun t => t.phase == 0#3) ∧
    completesWith (step (finished.setPending [stimulus 0x200#11 0#128 plain])) (fun t => t.phase == 2#3) ∧
    completesWith (step (State.reset.setPending [stimulus 0x200#11 0#128 plain])) (fun t => t.phase == 0#3) ∧
    completesWith (step (loaded.setPending [stimulus 0x400#11 0#128 0#128])) (fun t => t.phase == 0#3) := by
  decide +kernel

theorem witness_BusyStepIgnoresInputs : loaded.busy = true ∧ loaded.presents StimulusWord.idle ∧
    (loaded.setPending [stimulus 0x103#11 plain key]).presents ⟨0x103#11, plain, key⟩ ∧
    (⟨0x103#11, plain, key⟩ : StimulusWord).rst = false ∧ ∃ t, step loaded = .next t := by
  have h : completesWith (step loaded) (fun _ => true) := by decide +kernel
  obtain ⟨t, ht, -⟩ := exists_of_completesWith h
  exact ⟨rfl, rfl, rfl, rfl, t, ht⟩

/-- The same control state over different `ST`, `RK`, `key_in` and `pt_in`. -/
theorem witness_ControlIgnoresData :
    ((keyed.setSt (loadState key)).setRk State.reset.rk).control = keyed.control ∧
    (keyed.setPending [stimulus 0x110#11 key 0#128]).presents ⟨0x110#11, key, 0#128⟩ ∧
    (keyed.setPending [stimulus 0x110#11 plain key]).presents ⟨0x110#11, plain, key⟩ ∧
    completesWith (step (keyed.setPending [stimulus 0x110#11 key 0#128])) (fun _ => true) :=
  ⟨by decide +kernel, rfl, rfl, by decide +kernel⟩

/-- `ERR` rises by a bad length, falls by a good one and by RESET. -/
theorem witness_ErrChangesOnlyByExpandKeyOrReset :
    (keyed.err = false ∧ completesWith (step (keyed.setPending [stimulus 0x111#11 key 0#128])) (fun t => t.err)) ∧
    completesWith (step ((State.reset.setErr true).setPending [stimulus 0x110#11 key 0#128])) (fun t => !t.err) ∧
    completesWith (step ((State.reset.setErr true).setPending [stimulus 0x400#11 0#128 0#128])) (fun t => !t.err) := by
  decide +kernel

/-- `KEY_VALID` rises in the last KS_WORD; it falls by EXPAND_KEY of good and of bad length and by RESET. -/
theorem witness_KeyValidChangesOnlyByKeyExpansion :
    (lastWord.keyValid = false ∧ completesWith (step lastWord) (fun t => t.keyValid)) ∧
    completesWith (step (keyed.setPending [stimulus 0x110#11 key 0#128])) (fun t => !t.keyValid) ∧
    completesWith (step (keyed.setPending [stimulus 0x10f#11 key 0#128])) (fun t => !t.keyValid) ∧
    completesWith (step (keyed.setPending [stimulus 0x400#11 0#128 0#128])) (fun t => !t.keyValid) := by
  decide +kernel

/-- `RK` changes by KS_WORD and by the accept step. -/
theorem witness_ScheduleWrittenOnlyByExpansion :
    completesWith (step loaded) (fun t => decide (t.rk ≠ loaded.rk)) ∧
    completesWith (step (keyed.setPending [stimulus 0x110#11 plain 0#128])) (fun t => decide (t.rk ≠ keyed.rk)) := by
  decide +kernel

theorem witness_CiphertextIsHeldInDone : finished.phase = Phase.done.code ∧ (∃ t, step finished = .next t) ∧
    ∀ w, finished.presents w → w.rst = false ∧ (w.cmd = 0#2 ∨ w.cmd = 3#2 ∨ (w.cmd = 2#2 ∧ finished.keyValid = false)) := by
  refine ⟨rfl, ⟨_, rfl⟩, fun w h => ?_⟩
  have e : StimulusWord.idle = w := Presented.stimulus.inj h
  subst e
  exact ⟨rfl, .inl rfl⟩

theorem witness_ValidScheduleIsExpandedKey : keyed.Inv ∧ keyed.keyValid = true := ⟨witness_inv_keyed, rfl⟩

/-- Forty commands, all ignored, behind the accepted EXPAND_KEY; the start state has `ERR` set. -/
theorem witness_KeyExpansionStepwise :
    ∃ (s : State) (w : StimulusWord) (ws : List StimulusWord), s.atRest = true ∧ w.rst = false ∧ w.cmd = 1#2 ∧
      w.keyLen = 16#8 ∧ ws.length = 40 ∧ (∀ v ∈ ws, v.rst = false) ∧
      s.pending = (w :: ws).map HostLine.stimulus ++ [.wait .done] :=
  ⟨(State.reset.setErr true).setPending ((⟨0x110#11, key, 0#128⟩ ::
      List.replicate 40 ⟨0x103#11, plain, key⟩ : List StimulusWord).map HostLine.stimulus ++ [.wait .done]),
    ⟨0x110#11, key, 0#128⟩, List.replicate 40 ⟨0x103#11, plain, key⟩, rfl, rfl, rfl, rfl, rfl,
    fun v hv => by rw [List.eq_of_mem_replicate hv]; rfl, rfl⟩

/-- Eleven commands, all ignored, behind the accepted ENCRYPT_BLOCK. -/
theorem witness_EncryptionStepwise :
    ∃ (s : State) (w : StimulusWord) (ws : List StimulusWord), s.atRest = true ∧ s.keyValid = true ∧ w.rst = false ∧
      w.cmd = 2#2 ∧ ws.length = 11 ∧ (∀ v ∈ ws, v.rst = false) ∧
      s.pending = (w :: ws).map HostLine.stimulus ++ [] :=
  ⟨finished.setPending ((⟨0x200#11, 0#128, plain⟩ ::
      List.replicate 11 ⟨0x110#11, plain, key⟩ : List StimulusWord).map HostLine.stimulus ++ []),
    ⟨0x200#11, 0#128, plain⟩, List.replicate 11 ⟨0x110#11, plain, key⟩, rfl, rfl, rfl, rfl, rfl,
    fun v hv => by rw [List.eq_of_mem_replicate hv]; rfl, rfl⟩

theorem witness_Encrypt1EndsWithTheCiphertext :
    (State.reset.setPending (encrypt1 key plain ++ [])).atRest = true ∧
    (State.reset.setPending (encrypt1 key plain ++ [])).pending = encrypt1 key plain ++ [] := ⟨rfl, rfl⟩

/-- One step before the end, and forty steps before it. -/
theorem witness_BusyPhaseRunsDown : lastWord.Inv ∧ lastWord.busy = true ∧ lastWord.presents StimulusWord.idle ∧
    lastWord.remaining = 1 ∧ completesWith (step lastWord) (fun t => t.remaining == 0 && !t.busy) ∧ loaded.Inv ∧
    loaded.remaining = 40 ∧ completesWith (step loaded) (fun t => t.remaining == 39 && t.busy) :=
  ⟨witness_inv_lastWord, rfl, rfl, by decide, by decide +kernel, witness_inv_loaded, by decide, by decide +kernel⟩

theorem witness_BusyEndsWithinFortySteps :
    ∃ (s : State) (ws : List StimulusWord), s.Inv ∧ s.busy = true ∧ ws.length = 40 ∧ (∀ v ∈ ws, v.rst = false) ∧
      s.pending = ws.map HostLine.stimulus ++ [] := by
  refine ⟨loaded.setPending ((List.replicate 40 StimulusWord.idle).map HostLine.stimulus ++ []),
    List.replicate 40 StimulusWord.idle, ?_, rfl, rfl, fun v hv => by rw [List.eq_of_mem_replicate hv]; rfl, rfl⟩
  have h := witness_inv_loaded
  exact ⟨h.phaseLegal, h.indexInKs, h.flagsInKs, h.wordsInKs, h.wordsWhenValid, h.indexWhenValid, h.roundInRound,
    h.roundAtEnd, h.validInEncryption, h.afterError⟩

theorem witness_CtOutOnlyWhileDone : finished.done = true ∧ keyed.done = false := by decide

end Sys2Proof.Tests
end

/-! The registers of `10_state.md` (family `10_state.md`): what each operation does to the key registers (`RK`, `KI`,
`KEY_VALID`, `ERR`), the invariants of R22 to R26 by phase, and the schedule as `expand_key` of its first four words. -/

namespace Sys2Proof.Machine

/-! ### Unit operations and the model's stop of KS_WORD -/

/-- RCONW drives its own port; only an index outside the table draws a free value (R33, R75). -/
theorem exec_rconw_frame {j : Nibble} {s t : State} (h : exec (.rconw j) s = .next t) :
    s.sameCore t ∧ t.pending = s.pending ∧ t.unit = { s.unit with rconwOut := t.unit.rconwOut } ∧
      (j.toNat ≤ 9 → t.draws = s.draws) := by
  simp only [exec, execRconw] at h
  split at h
  case isTrue =>
    cases h
    exact ⟨rfl, rfl, rfl, fun _ => rfl⟩
  case isFalse hj =>
    cases h
    refine ⟨rfl, rfl, rfl, fun hle => absurd ?_ hj⟩
    exact decide_eq_true (Nat.lt_succ_of_le hle)

/-- Settles O30: every unit operation but RCONW answers the state with one port replaced. -/
theorem unitOperationsFrame : Obligations.UnitOperationsFrame := by
  intro s t
  refine ⟨fun _ _ h => ?_, fun _ h => ?_, fun _ h => ?_, fun _ h => ?_, fun _ h => ?_, fun _ _ h => ?_,
    fun _ h => ?_, fun _ h => ?_, fun _ h => exec_rconw_frame h⟩ <;> (cases h; rfl)

/-- Settles O39: the guard of KS_WORD fails for such an index. -/
theorem ksWordStopsOutsideTheSchedule : Obligations.KsWordStopsOutsideTheSchedule := by
  intro s hki
  have hout : ¬(4 ≤ s.ki.toNat ∧ s.ki.toNat ≤ 43) := by omega
  exact if_neg hout

/-- A KS_WORD step that completes had `KI` in 4..43 and made the assignments of R147. -/
theorem exec_ksWord_cases {s t : State} (h : exec .ksWord s = .next t) :
    4 ≤ s.ki.toNat ∧ s.ki.toNat ≤ 43 ∧ t = s.ksWordWrite s.ki.toNat := by
  simp only [exec, execKsWord] at h
  split at h
  case isTrue hki =>
    cases h
    exact ⟨hki.1, hki.2, rfl⟩
  case isFalse => cases h

/-! ### The key registers -/

/-- `RK`, `KI`, `KEY_VALID` and `ERR` are the same in both states: what no step of an encryption writes. -/
structure State.SameKey (s t : State) : Prop where
  rk : t.rk = s.rk
  ki : t.ki = s.ki
  keyValid : t.keyValid = s.keyValid
  err : t.err = s.err

theorem State.SameKey.refl (s : State) : s.SameKey s := ⟨rfl, rfl, rfl, rfl⟩

theorem State.SameKey.of_taken {s t : State} (h : s.taken.SameKey t) : s.SameKey t := ⟨h.rk, h.ki, h.keyValid, h.err⟩

section
variable {s t : State} (h : s.SameKey t)
include h
theorem State.SameKey.setSt (v : StateMatrix) : s.SameKey (t.setSt v) := ⟨h.rk, h.ki, h.keyValid, h.err⟩
theorem State.SameKey.setRnd (v : BitVec 4) : s.SameKey (t.setRnd v) := ⟨h.rk, h.ki, h.keyValid, h.err⟩
theorem State.SameKey.setPhase (v : BitVec 3) : s.SameKey (t.setPhase v) := ⟨h.rk, h.ki, h.keyValid, h.err⟩
theorem State.SameKey.setUnit (v : UnitPorts) : s.SameKey (t.setUnit v) := ⟨h.rk, h.ki, h.keyValid, h.err⟩
theorem State.SameKey.setDraws (v : Nat) : s.SameKey (t.setDraws v) := ⟨h.rk, h.ki, h.keyValid, h.err⟩
end

/-- Reading a round key changes nothing but the counter of free values (R29). -/
theorem State.readRoundKey_snd (s : State) (sel : BitVec 4) : ∃ n, (s.readRoundKey sel).2 = s.setDraws n := by
  rcases s.readRoundKey_cases sel with ⟨-, h⟩ | ⟨-, h⟩ <;> rw [h]
  · exact ⟨s.draws, rfl⟩
  · exact ⟨s.draws + 1, rfl⟩

/-- ENC_INIT (R165): the key registers stay, `RND` is 1, the rounds begin. -/
theorem exec_encInit_control {s t : State} (h : exec .encInit s = .next t) :
    s.SameKey t ∧ t.phase = Phase.round.code ∧ t.rnd = 1#4 := by
  obtain ⟨n, hread⟩ := s.readRoundKey_snd 0#4
  simp only [exec, execEncInit, hread] at h
  cases h
  exact ⟨((((State.SameKey.refl s).setDraws n).setSt _).setRnd _).setPhase _, rfl, rfl⟩

/-- ENC_ROUND (R166): the key registers stay, `RND` advances, round 9 is the last. -/
theorem exec_encRound_control {s t : State} (h : exec .encRound s = .next t) :
    s.SameKey t ∧ t.rnd = s.rnd + 1#4 ∧
      ((s.rnd = 9#4 ∧ t.phase = Phase.final.code) ∨ (s.rnd ≠ 9#4 ∧ t.phase = s.phase)) := by
  obtain ⟨n, hread⟩ := s.readRoundKey_snd s.rnd
  simp only [exec, execEncRound, hread] at h
  have hkey := (((State.SameKey.refl s).setDraws n).setSt (fullRound s.st (s.readRoundKey s.rnd).1)).setRnd (s.rnd + 1#4)
  by_cases h9 : s.rnd = 9#4
  · rw [if_pos h9] at h
    cases h
    exact ⟨hkey.setPhase _, rfl, .inl ⟨h9, rfl⟩⟩
  · rw [if_neg h9] at h
    cases h
    exact ⟨hkey, rfl, .inr ⟨h9, rfl⟩⟩

/-- ENC_FINAL (R167): the key registers and `RND` stay, the encryption is done. -/
theorem exec_encFinal_control {s t : State} (h : exec .encFinal s = .next t) :
    s.SameKey t ∧ t.phase = Phase.done.code ∧ t.rnd = s.rnd := by
  obtain ⟨n, hread⟩ := s.readRoundKey_snd 10#4
  simp only [exec, execEncFinal, hread] at h
  cases h
  exact ⟨(((State.SameKey.refl s).setDraws n).setSt _).setPhase _, rfl, rfl⟩

/-- All that a step can do to the key registers: nothing; RESET; KS_WORD; an EXPAND_KEY accepted or answered by the
exception. -/
theorem step_key_cases {s t : State} (h : step s = .next t) :
    s.SameKey t ∨ ∃ w, s.presents w ∧
      ((w.rst = true ∧ t = s.taken.loseData.resetControl) ∨
       (w.rst = false ∧ s.phase = Phase.ks.code ∧ t = s.taken.ksWordWrite s.ki.toNat) ∨
       (s.atRest = true ∧ w.cmd = 1#2 ∧ w.keyLen = 16#8 ∧
         t = ((((s.taken.loadKeyWords w.keyIn).setKi 4#6).setKeyValid false).setErr false).setPhase Phase.ks.code) ∨
       (s.atRest = true ∧ w.cmd = 1#2 ∧ t = s.taken.raiseInvalidKeyLength)) := by
  have hs : s.SameKey s.taken := .of_taken (.refl _)
  rcases step_cases h with
    ⟨u, -, hx⟩ | ⟨w, hw, ⟨hr, rfl⟩ | ⟨hr, hp, hx⟩ | ⟨-, -, hx⟩ | ⟨-, -, hx⟩ | ⟨-, -, hx⟩ | ⟨hr, ha, hx⟩⟩
  · obtain ⟨ports, n, rfl⟩ := exec_unit_cases hx
    exact .inl ((hs.setDraws n).setUnit ports)
  · exact .inr ⟨w, hw, .inl ⟨hr, rfl⟩⟩
  · exact .inr ⟨w, hw, .inr (.inl ⟨hr, hp, (exec_ksWord_cases hx).2.2⟩)⟩
  · exact .inl (exec_encInit_control hx).1.of_taken
  · exact .inl (exec_encRound_control hx).1.of_taken
  · exact .inl (exec_encFinal_control hx).1.of_taken
  · rcases exec_command_cases (s := s.taken) hr ha hx with ⟨rfl, -⟩ | ⟨hc, hl, rfl⟩ | ⟨hc, -, rfl⟩ | ⟨-, -, rfl⟩
    · exact .inl hs
    · exact .inr ⟨w, hw, .inr (.inr (.inl ⟨ha, hc, hl, rfl⟩))⟩
    · exact .inr ⟨w, hw, .inr (.inr (.inr ⟨ha, hc, rfl⟩))⟩
    · exact .inl ((hs.setSt _).setPhase _)

/-- KS_WORD sets `KEY_VALID` in its last word and leaves it alone before (R147). -/
theorem State.ksWordWrite_keyValid (s : State) (i : Nat) :
    (s.ksWordWrite i).keyValid = if i = 43 then true else s.keyValid := by
  rcases s.ksWordWrite_cases i with ⟨hi, e⟩ | ⟨hi, e⟩ <;> rw [e]
  · rw [if_pos hi]; rfl
  · rw [if_neg hi]; rfl

/-- Settles O51, by the four ways in which a step touches the key registers. -/
theorem keyValidChangesOnlyByKeyExpansion : Obligations.KeyValidChangesOnlyByKeyExpansion := by
  intro s t h
  rcases step_key_cases h with hs | ⟨w, hw, ⟨hr, rfl⟩ | ⟨hr, hp, rfl⟩ | ⟨ha, hc, -, rfl⟩ | ⟨ha, hc, rfl⟩⟩
  · rw [hs.keyValid]
    exact ⟨fun h0 h1 => absurd (h0.symm.trans h1) (by decide), fun h1 h0 => absurd (h0.symm.trans h1) (by decide)⟩
  · exact ⟨fun _ h1 => absurd h1 Bool.false_ne_true, fun _ _ => ⟨w, hw, .inl hr⟩⟩
  · rw [State.ksWordWrite_keyValid, State.taken_keyValid]
    refine ⟨fun h0 h1 => ⟨w, hw, hr, hp, ?_⟩, fun h1 h0 => ?_⟩
    · rw [h0] at h1
      exact BitVec.eq_of_toNat_eq (by simpa using h1)
    · rw [h1] at h0
      simp at h0
  · exact ⟨fun _ h1 => absurd h1 Bool.false_ne_true, fun _ _ => ⟨w, hw, .inr ⟨ha, hc⟩⟩⟩
  · exact ⟨fun _ h1 => absurd h1 Bool.false_ne_true, fun _ _ => ⟨w, hw, .inr ⟨ha, hc⟩⟩⟩

/-- Settles O52, by the same cases: the exception leaves `RK` alone. -/
theorem scheduleWrittenOnlyByExpansion : Obligations.ScheduleWrittenOnlyByExpansion := by
  intro s t h hrk
  rcases step_key_cases h with hs | ⟨w, hw, ⟨hr, -⟩ | ⟨-, hp, -⟩ | ⟨ha, hc, hl, -⟩ | ⟨-, -, rfl⟩⟩
  · exact absurd hs.rk hrk
  · exact ⟨w, hw, .inl hr⟩
  · exact ⟨w, hw, .inr (.inl hp)⟩
  · exact ⟨w, hw, .inr (.inr ⟨ha, hc, hl⟩)⟩
  · exact absurd rfl hrk

/-! ### The invariants of R22 to R26, phase by phase -/

/-- Without a key the machine is in order in IDLE, whatever the other registers hold (R211). -/
theorem State.inv_of_idle {t : State} (hp : t.phase = Phase.idle.code) (hv : t.keyValid = false) : t.Inv where
  phaseLegal := by rw [hp]; rfl
  indexInKs h := absurd (hp.symm.trans h) (by decide)
  flagsInKs h := absurd (hp.symm.trans h) (by decide)
  wordsInKs h := absurd (hp.symm.trans h) (by decide)
  wordsWhenValid h := absurd (hv.symm.trans h) (by decide)
  indexWhenValid h := absurd (hv.symm.trans h) (by decide)
  roundInRound h := absurd (hp.symm.trans h) (by decide)
  roundAtEnd h := by rw [hp] at h; exact absurd h (by decide)
  validInEncryption h := by rw [hp] at h; exact absurd h (by decide)
  afterError _ := ⟨hv, hp⟩

/-- The key expansion's own invariant (R25). -/
theorem State.inv_of_ks {t : State} (hp : t.phase = Phase.ks.code) (hki : 4 ≤ t.ki.toNat ∧ t.ki.toNat ≤ 43)
    (hv : t.keyValid = false) (he : t.err = false) (hw : ScheduleUpTo t.rk t.ki.toNat) : t.Inv where
  phaseLegal := by rw [hp]; rfl
  indexInKs _ := hki
  flagsInKs _ := ⟨hv, he⟩
  wordsInKs _ := hw
  wordsWhenValid h := absurd (hv.symm.trans h) (by decide)
  indexWhenValid h := absurd (hv.symm.trans h) (by decide)
  roundInRound h := absurd (hp.symm.trans h) (by decide)
  roundAtEnd h := by rw [hp] at h; exact absurd h (by decide)
  validInEncryption h := by rw [hp] at h; exact absurd h (by decide)
  afterError h := absurd (he.symm.trans h) (by decide)

/-- Where a valid key may stand: IDLE, or a phase of an encryption with `RND` in that phase's range (R24). -/
def State.RoundInRange (t : State) : Prop :=
  t.phase = Phase.idle.code ∨ t.phase = Phase.init.code ∨
    (t.phase = Phase.round.code ∧ 1 ≤ t.rnd.toNat ∧ t.rnd.toNat ≤ 9) ∨
    ((t.phase = Phase.final.code ∨ t.phase = Phase.done.code) ∧ t.rnd = 10#4)

/-- What a valid key promises (R22, R25, R26). -/
structure State.KeyReady (t : State) : Prop where
  keyValid : t.keyValid = true
  err : t.err = false
  ki : t.ki = 44#6
  words : ScheduleUpTo t.rk 44

theorem State.RoundInRange.phase_ne_ks {t : State} (h : t.RoundInRange) : t.phase ≠ Phase.ks.code := by
  rcases h with hp | hp | ⟨hp, -⟩ | ⟨hp | hp, -⟩ <;> rw [hp] <;> decide

/-- A valid key is in order wherever it may stand. -/
theorem State.KeyReady.inv {t : State} (h : t.KeyReady) (hp : t.RoundInRange) : t.Inv where
  phaseLegal := by
    rcases hp with hp | hp | ⟨hp, -⟩ | ⟨hp | hp, -⟩ <;> rw [hp] <;> rfl
  indexInKs hk := absurd hk hp.phase_ne_ks
  flagsInKs hk := absurd hk hp.phase_ne_ks
  wordsInKs hk := absurd hk hp.phase_ne_ks
  wordsWhenValid _ := h.words
  indexWhenValid _ := h.ki
  roundInRound hr := by
    rcases hp with hp | hp | ⟨-, hrnd⟩ | ⟨hp | hp, -⟩
    case inr.inr.inl => exact hrnd
    all_goals exact absurd (hp.symm.trans hr) (by decide)
  roundAtEnd he := by
    rcases hp with hp | hp | ⟨hp, -⟩ | ⟨-, hrnd⟩
    case inr.inr.inr => exact hrnd
    all_goals rw [hp] at he; exact absurd he (by decide)
  validInEncryption _ := h.keyValid
  afterError he := absurd (h.err.symm.trans he) (by decide)

/-- Under the invariants a valid key excludes `ERR` and promises a whole schedule. -/
theorem State.Inv.keyReady {s : State} (h : s.Inv) (hv : s.keyValid = true) : s.KeyReady where
  keyValid := hv
  err := by
    cases he : s.err
    · rfl
    · exact absurd ((h.afterError he).1.symm.trans hv) (by decide)
  ki := h.indexWhenValid hv
  words := h.wordsWhenValid hv

/-- A valid key survives what leaves the key registers alone. -/
theorem State.KeyReady.of_sameKey {s t : State} (h : s.KeyReady) (hs : s.SameKey t) : t.KeyReady where
  keyValid := hs.keyValid.trans h.keyValid
  err := hs.err.trans h.err
  ki := hs.ki.trans h.ki
  words := hs.rk ▸ h.words

/-- The invariants speak of the seven registers only. -/
theorem State.Inv.of_sameCore {s t : State} (h : s.Inv) (hc : s.sameCore t) : t.Inv := by
  obtain ⟨core, unit, pending, draws⟩ := t
  cases hc
  exact ⟨h.phaseLegal, h.indexInKs, h.flagsInKs, h.wordsInKs, h.wordsWhenValid, h.indexWhenValid, h.roundInRound,
    h.roundAtEnd, h.validInEncryption, h.afterError⟩

/-! ### Each kind of step keeps them -/

/-- Writing the word that the recurrence asks for makes the schedule one word longer (R144, R147). -/
theorem ScheduleUpTo.write {rk : Vector Word 44} {n : Nat} (h : ScheduleUpTo rk n) (h4 : 4 ≤ n) (hn : n < 44) :
    ScheduleUpTo (rk.setIfInBounds n (rkWord rk (n - 4) ^^^ ksTemp n (rkWord rk (n - 1)))) (n + 1) := by
  intro i hi4 hi
  rw [rkWord_set _ _ _ _ hn, rkWord_set _ _ _ _ hn, rkWord_set _ _ _ _ hn, if_neg (show i - 4 ≠ n by omega),
    if_neg (show i - 1 ≠ n by omega)]
  by_cases hin : i = n
  · subst hin
    exact if_pos rfl
  · rw [if_neg hin]
    exact h i hi4 (by omega)

/-- KS_WORD moves on to the next word, or ends with a valid key (R147, R148). -/
theorem State.Inv.ksWordWrite {s : State} (h : s.Inv) (hp : s.phase = Phase.ks.code) :
    (s.ksWordWrite s.ki.toNat).Inv := by
  obtain ⟨h4, h43⟩ := h.indexInKs hp
  obtain ⟨hv, he⟩ := h.flagsInKs hp
  have hw := (h.wordsInKs hp).write h4 (by omega)
  have hnext : (s.ki + 1#6).toNat = s.ki.toNat + 1 := by bv_omega
  rcases s.ksWordWrite_cases s.ki.toNat with ⟨hi, e⟩ | ⟨hi, e⟩ <;> rw [e]
  · have h44 : s.ki.toNat + 1 = 44 := by omega
    exact State.KeyReady.inv ⟨rfl, he, BitVec.eq_of_toNat_eq (hnext.trans h44), h44 ▸ hw⟩ (.inl rfl)
  · refine State.inv_of_ks hp ?_ hv he ?_
    · rw [State.setKi_ki, hnext]
      omega
    · rw [State.setKi_ki, hnext]
      exact hw

/-- A round of an encryption leaves `RND` and `PHASE` in range (R24, R166). -/
theorem roundInRange_of_encRound {s t : State} (h : s.Inv) (hp : s.phase = Phase.round.code)
    (hx : exec .encRound s = .next t) : t.RoundInRange := by
  obtain ⟨h1, h9⟩ := h.roundInRound hp
  obtain ⟨-, hrnd, ⟨hlast, hfinal⟩ | ⟨hmore, hround⟩⟩ := exec_encRound_control hx
  · exact .inr (.inr (.inr ⟨.inl hfinal, by rw [hrnd, hlast]; rfl⟩))
  · have hne : s.rnd.toNat ≠ 9 := fun e => hmore (BitVec.eq_of_toNat_eq e)
    have hnext : (s.rnd + 1#4).toNat = s.rnd.toNat + 1 := by bv_omega
    refine .inr (.inr (.inl ⟨hround.trans hp, ?_⟩))
    rw [hrnd, hnext]
    omega

/-- Settles O44: reset leaves no key and the phase IDLE. -/
theorem resetStateMeetsInvariants : Obligations.ResetStateMeetsInvariants :=
  ⟨rfl, rfl, rfl, State.inv_of_idle rfl rfl⟩

/-- A command at rest keeps the invariants (R161, R163, R164). -/
theorem State.Inv.command {s t : State} {w : StimulusWord} (h : s.Inv) (hr : w.rst = false) (ha : s.atRest = true)
    (hx : exec (decodeStimulus w) s = .next t) : t.Inv := by
  rcases exec_command_cases hr ha hx with ⟨rfl, -⟩ | ⟨-, -, rfl⟩ | ⟨-, -, rfl⟩ | ⟨-, hv, rfl⟩
  · exact h
  · exact State.inv_of_ks rfl (show 4 ≤ (4#6).toNat ∧ (4#6).toNat ≤ 43 by decide) rfl rfl
      fun i h4 hi => absurd h4 (Nat.not_le_of_lt hi)
  · exact State.inv_of_idle rfl rfl
  · exact ((h.keyReady hv).of_sameKey (((State.SameKey.refl s).setSt _).setPhase _)).inv (.inr (.inl rfl))

/-- Settles O45, by the kinds of step: RESET and the exception end in IDLE without a key, KS_WORD extends the schedule,
and the steps of an encryption keep the key registers and leave `RND` in the range of their phase. -/
theorem everyStepKeepsInvariants : Obligations.EveryStepKeepsInvariants := by
  intro s t hs h
  have hi : s.taken.Inv := hs.of_sameCore rfl
  rcases step_cases h with
    ⟨u, -, hx⟩ | ⟨w, -, ⟨-, rfl⟩ | ⟨-, hp, hx⟩ | ⟨-, hp, hx⟩ | ⟨-, hp, hx⟩ | ⟨-, hp, hx⟩ | ⟨hr, ha, hx⟩⟩
  · obtain ⟨ports, n, rfl⟩ := exec_unit_cases hx
    exact hi.of_sameCore rfl
  · exact State.inv_of_idle rfl rfl
  · obtain ⟨-, -, rfl⟩ := exec_ksWord_cases hx
    exact hi.ksWordWrite hp
  · obtain ⟨hkey, hround, hrnd⟩ := exec_encInit_control hx
    have hready := hi.keyReady (hi.validInEncryption (.inl hp))
    exact (hready.of_sameKey hkey).inv (.inr (.inr (.inl ⟨hround, by rw [hrnd]; decide⟩)))
  · have hready := hi.keyReady (hi.validInEncryption (.inr (.inl hp)))
    exact (hready.of_sameKey (exec_encRound_control hx).1).inv (roundInRange_of_encRound hi hp hx)
  · obtain ⟨hkey, hdone, hrnd⟩ := exec_encFinal_control hx
    have hready := hi.keyReady (hi.validInEncryption (.inr (.inr (.inl hp))))
    exact (hready.of_sameKey hkey).inv (.inr (.inr (.inr ⟨.inr hdone, hrnd.trans (hi.roundAtEnd (.inl hp))⟩)))
  · exact hi.command hr ha hx

/-! ### The schedule as a list -/

/-- The file as the list of its 44 reads. -/
theorem toList_eq_map_rkWord (rk : Vector Word 44) : rk.toList = (List.range' 0 44).map (rkWord rk) := by
  refine List.ext_getElem (by simp) fun i hi _ => ?_
  have h44 : i < 44 := by simpa using hi
  simp [rkWord, Vector.getD, h44]

/-- Words that obey the recurrence are those that the recurrence computes from the four words before (R144). -/
theorem ScheduleUpTo.expandTail_eq {rk : Vector Word 44} {m : Nat} (h : ScheduleUpTo rk m) (n i : Nat)
    (hm : i + 4 + n ≤ m) :
    expandTail n (i + 4) (rkWord rk i) (rkWord rk (i + 1)) (rkWord rk (i + 2)) (rkWord rk (i + 3)) =
      (List.range' (i + 4) n).map (rkWord rk) := by
  induction n generalizing i with
  | zero => rfl
  | succ n ih =>
    have hword : rkWord rk (i + 4) = rkWord rk i ^^^ ksTemp (i + 4) (rkWord rk (i + 3)) :=
      h (i + 4) (by omega) (by omega)
    have htail := ih (i + 1) (by omega)
    rw [expandTail, ← hword, List.range'_succ, List.map_cons]
    exact congrArg _ htail

/-- A whole schedule is the expansion of its first four words (R22, R144). -/
theorem ScheduleUpTo.toList_eq_expandKey {rk : Vector Word 44} (h : ScheduleUpTo rk 44) :
    rk.toList = expandKey (roundKey rk 0) := by
  obtain ⟨h0, h1, h2, h3⟩ := blockWord_blockOfWords (rkWord rk 0) (rkWord rk 1) (rkWord rk 2) (rkWord rk 3)
  have htail := h.expandTail_eq 40 0 (by omega)
  rw [toList_eq_map_rkWord, expandKey, roundKey, h0, h1, h2, h3, htail]
  rfl

/-- Settles O54: the invariants make the schedule whole. -/
theorem validScheduleIsExpandedKey : Obligations.ValidScheduleIsExpandedKey :=
  fun _ hs hv => (hs.wordsWhenValid hv).toList_eq_expandKey

end Sys2Proof.Machine

/-! The layouts and tables of `20_memory.md`: the State matrix against a block (R56, R57), a round key against the
schedule (R58), and the S-Box table by row and column against its flat index (R51). -/

namespace Sys2Proof.Machine

/-! ### The State matrix against a block -/

/-- Byte `r` of the word made of a column is its row `r` (R58). -/
theorem wordByte_columnWord (k : Column) {r : Nat} (hr : r < 4) : wordByte (columnWord k) r = columnByte k r := by
  obtain ⟨h0, h1, h2, h3⟩ := wordByte_wordOfBytes k.r0 k.r1 k.r2 k.r3
  match r, hr with
  | 0, _ => exact h0
  | 1, _ => exact h1
  | 2, _ => exact h2
  | 3, _ => exact h3

/-- Word `c` of the block of four words `f 0` to `f 3` is `f c` (R57). -/
theorem blockWord_blockOfWords_apply (f : Nat → Word) {c : Nat} (hc : c < 4) :
    blockWord (blockOfWords (f 0) (f 1) (f 2) (f 3)) c = f c := by
  obtain ⟨h0, h1, h2, h3⟩ := blockWord_blockOfWords (f 0) (f 1) (f 2) (f 3)
  match c, hc with
  | 0, _ => exact h0
  | 1, _ => exact h1
  | 2, _ => exact h2
  | 3, _ => exact h3

/-- Word `c` of a stored matrix is its column `c` (R56, R57). -/
theorem blockWord_storeState (m : StateMatrix) {c : Nat} (hc : c < 4) :
    blockWord (storeState m) c = columnWord (matrixColumn m c) :=
  blockWord_blockOfWords_apply (fun c => columnWord (matrixColumn m c)) hc

theorem matrixColumn_loadState (p : Block) {c : Nat} (hc : c < 4) :
    matrixColumn (loadState p) c = blockColumn p c := by
  match c, hc with
  | 0, _ | 1, _ | 2, _ | 3, _ => rfl

/-- Column `c` of a block, put together again, is its word `c` (R57, R58). -/
theorem columnWord_blockColumn (p : Block) {c : Nat} (hc : c < 4) : columnWord (blockColumn p c) = blockWord p c := by
  rw [blockColumn_eq p c hc]
  exact wordOfBytes_wordByte _

/-- LoadState fills the matrix column by column (R56). -/
theorem cell_loadState (p : Block) {r c : Nat} (hr : r < 4) (hc : c < 4) :
    cell (loadState p) r c = blockByte p (r + 4 * c) := by
  rw [cell, matrixColumn_loadState p hc, blockByte_eq_wordByte p r c hr hc, ← columnWord_blockColumn p hc,
    wordByte_columnWord _ hr]

/-- StoreState reads the matrix column by column (R56). -/
theorem blockByte_storeState (m : StateMatrix) {r c : Nat} (hr : r < 4) (hc : c < 4) :
    blockByte (storeState m) (r + 4 * c) = cell m r c := by
  rw [blockByte_eq_wordByte _ r c hr hc, blockWord_storeState m hc, wordByte_columnWord _ hr, cell]

/-- Column `c` of a stored matrix, as loading reads it, is the matrix's column `c`. -/
theorem blockColumn_storeState (m : StateMatrix) {c : Nat} (hc : c < 4) :
    blockColumn (storeState m) c = matrixColumn m c := by
  rw [blockColumn_eq _ c hc, blockWord_storeState m hc]
  simp [wordByte_columnWord, columnByte]

theorem loadState_storeState (m : StateMatrix) : loadState (storeState m) = m := by
  simp [loadState, blockColumn_storeState, matrixColumn]

theorem storeState_loadState (p : Block) : storeState (loadState p) = p := by
  simp [storeState, loadState, columnWord_blockColumn, blockOfWords_blockWord]

/-- Settles O17: cell and byte at the same index, and the two functions undo each other. -/
theorem loadStoreLayout : Obligations.LoadStoreLayout :=
  ⟨fun p _ _ => cell_loadState p, fun m _ _ => blockByte_storeState m, loadState_storeState, storeState_loadState⟩

/-! ### A round key against the schedule -/

/-- Word `c` of round key `k` is `RK[4k + c]` (R58). -/
theorem blockWord_roundKey (rk : Vector Word 44) (k : Nat) {c : Nat} (hc : c < 4) :
    blockWord (roundKey rk k) c = rkWord rk (4 * k + c) :=
  blockWord_blockOfWords_apply (fun c => rkWord rk (4 * k + c)) hc

/-- Byte `r + 4c` of round key `k` is byte `r` of `RK[4k + c]` (R58). -/
theorem blockByte_roundKey (rk : Vector Word 44) (k : Nat) {r c : Nat} (hr : r < 4) (hc : c < 4) :
    blockByte (roundKey rk k) (r + 4 * c) = wordByte (rkWord rk (4 * k + c)) r := by
  rw [blockByte_eq_wordByte _ r c hr hc, blockWord_roundKey rk k hc]

/-- Column `c` of the matrix of a block is the block's word `c` (R57, R58). -/
theorem columnWord_loadState (p : Block) {c : Nat} (hc : c < 4) :
    columnWord (matrixColumn (loadState p) c) = blockWord p c := by
  rw [matrixColumn_loadState p hc, columnWord_blockColumn p hc]

/-- Settles O18: the round key's word `c` is the schedule's word, read by bytes, by cells, by columns and by bits. -/
theorem roundKeyLayout : Obligations.RoundKeyLayout := by
  intro rk k _
  refine ⟨fun r c hr hc => ⟨blockByte_roundKey rk k hr hc, ?_⟩, fun c hc => ?_, fun c hc => blockWord_roundKey rk k hc⟩
  · exact (cell_loadState _ hr hc).trans (blockByte_roundKey rk k hr hc)
  · exact (columnWord_loadState _ hc).trans (blockWord_roundKey rk k hc)

/-! ### The S-Box table by row and column -/

/-- Where all rows have `n` entries, entry `j` of row `i` has the flat index `n*i + j`. -/
theorem getElem?_flatten_of_rows {α : Type} {n j : Nat} (hj : j < n) (rows : List (List α)) (i : Nat)
    (hrows : ∀ row ∈ rows, row.length = n) : rows.flatten[n * i + j]? = rows[i]?.bind fun row => row[j]? := by
  induction rows generalizing i with
  | nil => rfl
  | cons row rows ih =>
    have hrow : row.length = n := hrows row List.mem_cons_self
    cases i with
    | zero => simp [List.getElem?_append_left, hrow, hj]
    | succ i =>
      have hle : row.length ≤ n * (i + 1) + j := by rw [hrow, Nat.mul_succ]; omega
      have hindex : n * (i + 1) + j - row.length = n * i + j := by rw [hrow, Nat.mul_succ]; omega
      rw [List.flatten_cons, List.getElem?_append_right hle, hindex, List.getElem?_cons_succ]
      exact ih i fun r hr => hrows r (List.mem_cons_of_mem _ hr)

theorem sboxTable_length : sboxTable.length = 16 := rfl

theorem sboxTable_row_length : ∀ row ∈ sboxTable, row.length = 16 := by decide

theorem sboxTable_flatten_length : sboxTable.flatten.length = 256 := by
  rw [List.length_flatten, List.map_congr_left sboxTable_row_length]
  rfl

/-- A byte is its high nibble followed by its low one (R51). -/
theorem byte_toNat_eq_nibbles (x : Byte) : 16 * (x.extractLsb' 4 4).toNat + (x.extractLsb' 0 4).toNat = x.toNat := by
  simp only [BitVec.extractLsb'_toNat, Nat.shiftRight_eq_div_pow]
  have hx := x.isLt
  omega

/-- Every byte is a valid index of the table, so its entry is the S-Box's value, never a default (R51, R110). -/
theorem sboxTable_entry (x : Byte) :
    (sboxTable[(x.extractLsb' 4 4).toNat]?).bind (fun row => row[(x.extractLsb' 0 4).toNat]?) = some (sboxByte x) := by
  have hhi : (x.extractLsb' 4 4).toNat < sboxTable.length := (x.extractLsb' 4 4).isLt
  have hlo : (x.extractLsb' 0 4).toNat < (sboxTable[(x.extractLsb' 4 4).toNat]).length := by
    rw [sboxTable_row_length _ (List.getElem_mem hhi)]
    exact (x.extractLsb' 0 4).isLt
  rw [sboxByte, List.getD_eq_getElem _ _ hhi, List.getD_eq_getElem _ _ hlo, List.getElem?_eq_getElem hhi]
  exact List.getElem?_eq_getElem hlo

/-- The same entry at the flat index, which is the byte itself (R51). -/
theorem sboxTable_flatten_entry (x : Byte) : sboxTable.flatten[x.toNat]? = some (sboxByte x) := by
  rw [← byte_toNat_eq_nibbles x, getElem?_flatten_of_rows (x.extractLsb' 0 4).isLt _ _ sboxTable_row_length,
    sboxTable_entry]

/-- Settles O13: row and column are the two nibbles of the flat index, and all of them are in range. -/
theorem sboxRowColumnIsFlatIndex : Obligations.SboxRowColumnIsFlatIndex :=
  ⟨sboxTable_length, sboxTable_row_length, sboxTable_flatten_length,
    fun x => ⟨byte_toNat_eq_nibbles x, sboxTable_entry x, sboxTable_flatten_entry x⟩⟩

end Sys2Proof.Machine

/-! The encoding of `30_encoding.md`: the fields of `ctl` behind match and mask (R72, R73), the stimulus vector
against its parts (R73), decode against encode (R70 to R75), the decoder of the whole block (R70, R171), and the
lines a step takes (R80). -/

namespace Sys2Proof

/-! ### The rows of `ctl` -/

/-- The row of a stimulus word put together from its fields (R72, R73). -/
theorem decodeStimulus_ofFields (rst : Bool) (cmd : BitVec 2) (keyLen : Byte) (keyIn ptIn : Block) :
    decodeStimulus (.ofFields rst cmd keyLen keyIn ptIn) =
      if rst then .reset
      else if cmd = 0#2 then .nop
      else if cmd = 1#2 then .expandKey keyLen keyIn
      else if cmd = 2#2 then .encryptBlock ptIn
      else .rsvd3 := by
  simp only [decodeStimulus, StimulusWord.ofFields_rst, StimulusWord.ofFields_cmd, StimulusWord.ofFields_keyLen,
    StimulusWord.ofFields_keyIn, StimulusWord.ofFields_ptIn]

theorem decodeStimulus_of_rst {w : StimulusWord} (hr : w.rst = true) : decodeStimulus w = .reset := if_pos hr

/-- Bit 10 of `ctl` lies under the mask of the PIN row (R73). -/
theorem StimulusWord.rst_of_pinMask {w : StimulusWord} {v : BitVec 11} (h : w.ctl &&& 0x400#11 = v) :
    w.rst = v.getLsbD 10 := by
  rw [← h, BitVec.getLsbD_and, StimulusWord.rst]
  exact (Bool.and_true _).symm

/-- Bits 10 to 8 of `ctl` lie under the mask of the CMD rows (R73). -/
theorem StimulusWord.fields_of_cmdMask {w : StimulusWord} {v : BitVec 11} (h : w.ctl &&& 0x700#11 = v) :
    w.rst = v.getLsbD 10 ∧ w.cmd = v.extractLsb' 8 2 := by
  have hcmd : (0x700#11).extractLsb' 8 2 = BitVec.allOnes 2 := by decide
  subst h
  constructor
  · rw [BitVec.getLsbD_and, StimulusWord.rst]
    exact (Bool.and_true _).symm
  · rw [BitVec.extractLsb'_and, hcmd, BitVec.and_allOnes, StimulusWord.cmd]

/-- Settles O6: each match and mask fixes `rst` and `cmd`, which choose the row. -/
theorem commandRowsByMatchAndMask : Obligations.CommandRowsByMatchAndMask := by
  intro w
  have hlen : w.ctl.setWidth 8 = w.keyLen := BitVec.setWidth_eq_extractLsb' (by omega)
  refine ⟨fun h => decodeStimulus_of_rst (StimulusWord.rst_of_pinMask h), fun h => ?_, fun h => ?_, fun h => ?_,
    fun h => ?_⟩ <;>
    obtain ⟨hrst, hcmd⟩ := StimulusWord.fields_of_cmdMask h <;>
    simp [decodeStimulus, hrst, hcmd, hlen]

/-! ### The stimulus vector and its parts -/

theorem StimulusWord.ofBits_toBits (w : StimulusWord) : StimulusWord.ofBits w.toBits = w := by
  have hctl : (w.ctl ++ w.keyIn ++ w.ptIn).extractLsb' 256 11 = w.ctl := by
    rw [BitVec.extractLsb'_append_eq_of_le (by omega)]
    exact BitVec.extractLsb'_append_eq_left
  have hkey : (w.ctl ++ w.keyIn ++ w.ptIn).extractLsb' 128 128 = w.keyIn := by
    rw [BitVec.extractLsb'_append_eq_of_le (by omega)]
    exact BitVec.extractLsb'_append_eq_right
  have hpt : (w.ctl ++ w.keyIn ++ w.ptIn).extractLsb' 0 128 = w.ptIn := BitVec.extractLsb'_append_eq_right
  rw [StimulusWord.ofBits, StimulusWord.toBits, hctl, hkey, hpt]

theorem StimulusWord.toBits_ofBits (v : BitVec 267) : (StimulusWord.ofBits v).toBits = v := by
  have hupper : v.extractLsb' 256 11 ++ v.extractLsb' 128 128 = v.extractLsb' 128 139 :=
    BitVec.extractLsb'_append_extractLsb'_eq_extractLsb' rfl
  have hall : v.extractLsb' 128 139 ++ v.extractLsb' 0 128 = v :=
    BitVec.extractLsb'_append_extractLsb' (w := 139) (len := 128)
  rw [StimulusWord.toBits, StimulusWord.ofBits, hupper, hall]

/-- Settles O7: the three parts lie side by side in the vector. -/
theorem stimulusVectorRoundTrip : Obligations.StimulusVectorRoundTrip :=
  ⟨StimulusWord.ofBits_toBits, StimulusWord.toBits_ofBits⟩

/-! ### Decode against encode -/

/-- Decoding undoes encoding (R70 to R75): a UNIT vector gives back its operands, a stimulus word its fields, a code
of `PHASE` its micro-operation. -/
theorem decode_encode (i : Instr) : decode (encode i) = .ok i := by
  cases i with
  | gfmul a b =>
    simp only [encode, decode, decodeUnit, BitVec.extractLsb'_append_eq_left, BitVec.extractLsb'_append_eq_right]
  | addroundkey s k =>
    simp only [encode, decode, decodeUnit, BitVec.extractLsb'_append_eq_left, BitVec.extractLsb'_append_eq_right]
  | sbox | subbytes | shiftrows | mixcolumns | rotword | subword | rconw => rfl
  | nop | expandKey | encryptBlock | rsvd3 | reset =>
    rw [encode, decode, decodeStimulus_ofFields]
    rfl
  | ksWord | encInit | encRound | encFinal => rfl

/-- Settles O5, by cases on the operation's format. -/
theorem decodeOfEncodeIsTheOperation : Obligations.DecodeOfEncodeIsTheOperation := decode_encode

/-- A stimulus word that encodes an operation decodes to it. -/
theorem decodeStimulus_of_encode {i : Instr} {w : StimulusWord} (h : encode i = .stimulus w) :
    decodeStimulus w = i := by
  have hd := decode_encode i
  rw [h] at hd
  exact Except.ok.inj hd

/-- The phases whose code encodes an operation are those whose micro-operation it is (R74). -/
theorem encode_eq_phase_iff (i : Instr) (p : Phase) : encode i = .phase p.code ↔ p.microOp = some i := by
  constructor
  · intro h
    have hd := decode_encode i
    rw [h, decode, decodePhase, Machine.Phase.ofCode_code] at hd
    cases hm : p.microOp with
    | none => simp [hm] at hd
    | some m => simpa [hm] using hd
  · intro h
    cases p <;> cases h <;> rfl

/-! ### The decoder of the whole block -/

/-- With `rst == 0` a phase's micro-operation comes first, and the command decides where it has none (R171). -/
theorem decodeTop_code (p : Phase) {w : StimulusWord} (hr : w.rst = false) :
    decodeTop p.code w = .ok (p.microOp.getD (decodeStimulus w)) := by
  cases hm : p.microOp <;> simp [decodeTop, hr, hm]

/-- With `rst == 0` the codes 6 and 7 select no operation (R78). -/
theorem decodeTop_unreachable {c : BitVec 3} {w : StimulusWord} (hr : w.rst = false) (hc : c = 6#3 ∨ c = 7#3) :
    decodeTop c w = .error (.unreachablePhase c) := by
  have hnone : Phase.ofCode c = none := (Machine.Phase.ofCode_eq_none_iff c).2 hc
  simp [decodeTop, hr, hnone]

/-- An encoded command is read in a phase exactly where no micro-operation comes before it: a micro-operation is
encoded by its phase, never by a stimulus word. -/
theorem decodeTop_command_iff {i : Instr} {w : StimulusWord} (p : Phase) (h : encode i = .stimulus w)
    (hr : w.rst = false) : decodeTop p.code w = .ok i ↔ p.busy = false := by
  rw [decodeTop_code p hr, decodeStimulus_of_encode h]
  cases hm : p.microOp with
  | none =>
    have hbusy : p.busy = false := by simpa [hm] using Machine.Phase.busy_iff_microOp p
    simp [hbusy]
  | some m =>
    have hbusy : p.busy = true := (Machine.Phase.busy_iff_microOp p).2 ⟨m, hm⟩
    have hne : m ≠ i := by
      rintro rfl
      rw [(encode_eq_phase_iff m p).2 hm] at h
      cases h
    simp [hbusy, hne]

/-- Settles O8: under `rst` the operation is RESET; else the phase's micro-operation, if it has one, hides the
command. -/
theorem blockDecoderReadsEncodings : Obligations.BlockDecoderReadsEncodings := by
  intro i p w
  refine ⟨fun h hr => ?_, fun h hr => decodeTop_command_iff p h hr, fun h hr => ?_⟩
  · rw [← decodeStimulus_of_encode h, decodeStimulus_of_rst hr]
    exact if_pos hr
  · rw [decodeTop_code p hr, (encode_eq_phase_iff i p).1 h, Option.getD_some]

/-- Settles O4, by evaluating the decoder. -/
theorem sampleWordsDecode : Obligations.SampleWordsDecode := by
  unfold Obligations.SampleWordsDecode
  decide

end Sys2Proof

namespace Sys2Proof.Machine

/-! ### The operation of a step -/

theorem step_of_decoded {s : State} {i : Instr} (h : decodePresented s.phase s.presented = .ok i) :
    step s = exec i s.taken := by
  rw [step, h]

theorem step_of_undecodable {s : State} {e : DecodeError} (h : decodePresented s.phase s.presented = .error e) :
    step s = .fault (.undecodable e) := by
  rw [step, h]

/-- Settles O1, by the decoder's two answers. -/
theorem stepPerformsDecodedOperation : Obligations.StepPerformsDecodedOperation :=
  ⟨fun _ _ => step_of_decoded, fun _ _ => step_of_undecodable⟩

/-- Settles O9: neither code is a phase, so the decoder of the whole block reads nothing. -/
theorem unreachablePhaseHasNoStep : Obligations.UnreachablePhaseHasNoStep := by
  intro s w hw hr hp
  apply step_of_undecodable
  rw [show s.presented = .stimulus w from hw]
  exact decodeTop_unreachable hr hp

/-! ### The lines a step takes -/

theorem fetchLine_wait_of_waiting {s : State} {c : WaitFor} (rest : List HostLine) (h : c.waiting s = true) :
    fetchLine s (.wait c :: rest) = (.stimulus StimulusWord.idle, .wait c :: rest) := if_pos h

theorem fetchLine_wait_of_passed {s : State} {c : WaitFor} (rest : List HostLine) (h : c.waiting s = false) :
    fetchLine s (.wait c :: rest) = fetchLine s rest := by
  rw [fetchLine, h]
  rfl

/-- The condition of a WAIT is about the block, not about the lines to come (R80). -/
theorem WaitFor.waiting_setPending (c : WaitFor) (s : State) (l : List HostLine) :
    c.waiting (s.setPending l) = c.waiting s := by
  cases c <;> rfl

/-- Which line is taken depends on the block and the lines given, not on the lines the state holds. -/
theorem fetchLine_setPending (s : State) (l lines : List HostLine) :
    fetchLine (s.setPending l) lines = fetchLine s lines := by
  induction lines with
  | nil => rfl
  | cons line rest ih =>
    cases line with
    | stimulus | unit => rfl
    | wait c => rw [fetchLine, fetchLine, WaitFor.waiting_setPending, ih]

/-- Where an idle host is presented and no line is taken, the step only lets the module outputs go. -/
theorem State.fetch_of_idle {s : State} (h : fetchLine s s.pending = (.stimulus StimulusWord.idle, s.pending)) :
    s.presented = .stimulus StimulusWord.idle ∧ s.taken = s.releaseUnits := by
  rw [State.presented, State.taken, h]
  exact ⟨rfl, rfl⟩

/-- A WAIT that waits no more is passed over (R80). -/
theorem State.fetch_of_passed {s : State} {c : WaitFor} {rest : List HostLine} (h : s.pending = .wait c :: rest)
    (hc : c.waiting s = false) :
    s.presented = (s.setPending rest).presented ∧ s.taken = (s.setPending rest).taken := by
  have hfetch : fetchLine s s.pending = fetchLine (s.setPending rest) rest := by
    rw [h, fetchLine_wait_of_passed rest hc, fetchLine_setPending]
  rw [State.presented, State.taken, hfetch]
  exact ⟨rfl, rfl⟩

/-- Settles O3, by the first pending line. -/
theorem fetchTakesTheNextLine : Obligations.FetchTakesTheNextLine := by
  intro s rest
  refine ⟨fun h => State.fetch_of_idle ?_, fun w h => ⟨State.presented_of_stimulus h, State.taken_of_stimulus h⟩,
    fun u h => ⟨State.presented_of_unit h, State.taken_of_unit h⟩, fun c h hc => State.fetch_of_idle ?_,
    fun c h hc => State.fetch_of_passed h hc⟩
  · rw [h, fetchLine]
  · rw [h, fetchLine_wait_of_waiting rest hc]

/-! ### RCONW outside its table -/

/-- RCONW of an index 10..15 draws a free value and shows it on its port (R78, U5). -/
theorem exec_rconw_outside {j : Nibble} (s : State) (hj : 10 ≤ j.toNat) :
    exec (.rconw j) s = .next
      ((s.setDraws (s.draws + 1)).setUnit { s.unit with rconwOut := some (Config.freeBits 32 s.draws) }) := by
  have hillegal : ¬ rconIndexLegal j = true := by
    rw [rconIndexLegal, decide_eq_true_eq]
    exact Nat.not_lt.2 hj
  exact if_neg hillegal

/-- Settles O29: the draw and the port are all that the next state shows anew. -/
theorem rconwOutsideTableCompletes : Obligations.RconwOutsideTableCompletes :=
  fun _ s hj => ⟨_, exec_rconw_outside s hj, rfl, rfl, Option.some_ne_none _, rfl, rfl⟩

end Sys2Proof.Machine

/-! The multiplier of `40_galois_field_mult.md` (R100 to R104). A byte is read in GF(2)[x] / m(x): XOR is addition, one
doubling of the loop is multiplication by x, so the loop is multiplication, and the laws are those of the ring. -/

namespace Sys2Proof.Machine

open Polynomial

/-! ### A byte as a polynomial -/

/-- Bit `n` is the coefficient of `x^n` (R100). -/
theorem coeff_bytePolynomial (a : Byte) (n : Nat) : (bytePolynomial a).coeff n = if a.getLsbD n then 1 else 0 := by
  have hterm (i : Nat) : (if a.getLsbD i then (X : (ZMod 2)[X]) ^ i else 0).coeff n =
      if i = n then (if a.getLsbD n then 1 else 0) else 0 := by
    by_cases hi : i = n
    · subst hi
      cases a.getLsbD i <;> simp
    · cases a.getLsbD i <;> simp [coeff_X_pow, hi, Ne.symm hi]
  rw [bytePolynomial, finsetSum_coeff, Finset.sum_congr rfl fun i _ => hterm i, Finset.sum_ite_eq']
  by_cases hn : n < 8
  · rw [if_pos (Finset.mem_range.2 hn)]
  · rw [if_neg (by simpa using hn), BitVec.getLsbD_of_ge a n (by omega)]
    rfl

theorem bytePolynomial_injective : Function.Injective bytePolynomial := by
  intro a b h
  refine BitVec.eq_of_getLsbD_eq fun i _ => ?_
  have hi := congrArg (coeff · i) h
  simp only [coeff_bytePolynomial] at hi
  cases ha : a.getLsbD i <;> cases hb : b.getLsbD i <;> simp [ha, hb] at hi ⊢

theorem degree_bytePolynomial_lt (a : Byte) : (bytePolynomial a).degree < 8 := by
  refine (degree_lt_iff_coeff_zero _ 8).2 fun n hn => ?_
  rw [coeff_bytePolynomial, BitVec.getLsbD_of_ge a n hn]
  rfl

/-- Addition in the field is XOR (R102). -/
theorem bytePolynomial_xor (a b : Byte) : bytePolynomial (a ^^^ b) = bytePolynomial a + bytePolynomial b := by
  ext n
  rw [coeff_add, coeff_bytePolynomial, coeff_bytePolynomial, coeff_bytePolynomial, BitVec.getLsbD_xor]
  cases a.getLsbD n <;> cases b.getLsbD n <;> decide

/-- Shifting right splits off the constant term. -/
theorem bytePolynomial_eq_shiftRight (b : Byte) :
    bytePolynomial b = (if b.getLsbD 0 then (1 : (ZMod 2)[X]) else 0) + X * bytePolynomial (b >>> 1) := by
  ext n
  rw [coeff_add, coeff_bytePolynomial]
  cases n with
  | zero => cases b.getLsbD 0 <;> simp
  | succ n => cases b.getLsbD 0 <;> simp [coeff_bytePolynomial, coeff_one, Nat.add_comm 1 n]

/-- Shifting left multiplies by x, but for the bit shifted out. -/
theorem X_mul_bytePolynomial (a : Byte) :
    X * bytePolynomial a = bytePolynomial (a <<< 1) + if a.getLsbD 7 then X ^ 8 else 0 := by
  ext n
  cases n with
  | zero => cases a.getLsbD 7 <;> simp [coeff_bytePolynomial]
  | succ n =>
    have hout : (if a.getLsbD 7 then (X : (ZMod 2)[X]) ^ 8 else 0).coeff (n + 1) =
        if n = 7 ∧ a.getLsbD 7 = true then 1 else 0 := by
      cases a.getLsbD 7 <;> simp [coeff_X_pow]
    rw [coeff_X_mul, coeff_add, hout]
    simp only [coeff_bytePolynomial, BitVec.getLsbD_shiftLeft]
    rcases lt_trichotomy n 7 with hn | rfl | hn
    · simp [hn.ne, show n + 1 < 8 by omega]
    · simp
    · simp [hn.ne', BitVec.getLsbD_of_ge a n hn, show ¬n + 1 < 8 by omega]

/-! ### The field polynomial -/

theorem degree_fieldPolynomial : fieldPolynomial.degree = 8 := by
  unfold fieldPolynomial
  compute_degree!

theorem fieldPolynomial_monic : fieldPolynomial.Monic := by
  unfold fieldPolynomial
  monicity!

/-- The reduction constant is m(x) without its leading term (R101). -/
theorem fieldPolynomial_eq : fieldPolynomial = X ^ 8 + bytePolynomial Config.reduce := by
  simp [fieldPolynomial, bytePolynomial, Config.reduce, Finset.sum_range_succ]
  ring

/-! ### A byte in GF(2)[x] / m(x) -/

/-- The class of a byte's polynomial modulo m(x) (R102). -/
noncomputable def byteResidue (a : Byte) : AdjoinRoot fieldPolynomial :=
  AdjoinRoot.mk fieldPolynomial (bytePolynomial a)

/-- A byte whose class is that of a polynomial is that polynomial's remainder: it has degree at most 7. -/
theorem bytePolynomial_of_residue {a : Byte} {q : (ZMod 2)[X]} (h : byteResidue a = AdjoinRoot.mk fieldPolynomial q) :
    bytePolynomial a = q %ₘ fieldPolynomial := by
  have hself : bytePolynomial a %ₘ fieldPolynomial = bytePolynomial a :=
    (modByMonic_eq_self_iff fieldPolynomial_monic).2 (degree_fieldPolynomial ▸ degree_bytePolynomial_lt a)
  rw [← hself]
  exact modByMonic_eq_of_dvd_sub fieldPolynomial_monic (AdjoinRoot.mk_eq_mk.1 h)

theorem byteResidue_injective : Function.Injective byteResidue := by
  intro a b h
  apply bytePolynomial_injective
  rw [bytePolynomial_of_residue h, ← bytePolynomial_of_residue (a := b) rfl]

theorem byteResidue_xor (a b : Byte) : byteResidue (a ^^^ b) = byteResidue a + byteResidue b := by
  rw [byteResidue, bytePolynomial_xor, map_add]
  rfl

theorem byteResidue_zero : byteResidue 0x00#8 = 0 := by simp [byteResidue, bytePolynomial]

theorem byteResidue_one : byteResidue 0x01#8 = 1 := by simp [byteResidue, bytePolynomial]

theorem byteResidue_two : byteResidue 0x02#8 = AdjoinRoot.root fieldPolynomial := by
  simp [byteResidue, bytePolynomial, Finset.sum_range_succ]

/-- Shifting right splits off the constant term and divides the rest by x. -/
theorem byteResidue_eq_shiftRight (b : Byte) :
    byteResidue b = (if b.getLsbD 0 then (1 : AdjoinRoot fieldPolynomial) else 0) +
      AdjoinRoot.root fieldPolynomial * byteResidue (b >>> 1) := by
  rw [byteResidue, bytePolynomial_eq_shiftRight, map_add, map_mul, AdjoinRoot.mk_X]
  cases b.getLsbD 0 <;> simp [byteResidue]

/-! ### The loop -/

/-- What one iteration makes of `a` (R101): shift left, and reduce when the bit shifted out was set. -/
def gfDouble (a : Byte) : Byte := if a.getLsbD 7 then (a <<< 1) ^^^ Config.reduce else a <<< 1

theorem gfLoop_succ (n : Nat) (acc a b : Byte) :
    gfLoop (n + 1) acc a b = gfLoop n (if b.getLsbD 0 then acc ^^^ a else acc) (gfDouble a) (b >>> 1) := rfl

/-- Doubling is multiplication by x: a set bit 7 becomes x^8, which m(x) makes the reduction constant. -/
theorem byteResidue_gfDouble (a : Byte) :
    byteResidue (gfDouble a) = AdjoinRoot.root fieldPolynomial * byteResidue a := by
  have hx : AdjoinRoot.root fieldPolynomial * byteResidue a =
      byteResidue (a <<< 1) + AdjoinRoot.mk fieldPolynomial (if a.getLsbD 7 then X ^ 8 else 0) := by
    rw [← AdjoinRoot.mk_X, byteResidue, ← map_mul, X_mul_bytePolynomial, map_add]
    rfl
  have hreduce : AdjoinRoot.mk fieldPolynomial (X ^ 8) = byteResidue Config.reduce := by
    rw [byteResidue, AdjoinRoot.mk_eq_mk, fieldPolynomial_eq, CharTwo.sub_eq_add]
  rw [hx, gfDouble]
  cases a.getLsbD 7 with
  | false => simp
  | true => rw [if_pos rfl, if_pos rfl, hreduce, byteResidue_xor]

/-- The loop adds a·b to the accumulator, when it has an iteration for every bit of `b` (R102). -/
theorem byteResidue_gfLoop (n : Nat) (acc a b : Byte) (hb : b.toNat < 2 ^ n) :
    byteResidue (gfLoop n acc a b) = byteResidue acc + byteResidue a * byteResidue b := by
  induction n generalizing acc a b with
  | zero =>
    have hzero : b = 0x00#8 := BitVec.eq_of_toNat_eq (by simpa using hb)
    rw [hzero, byteResidue_zero, mul_zero, add_zero, gfLoop]
  | succ n ih =>
    have hshift : (b >>> 1).toNat < 2 ^ n := by
      rw [BitVec.toNat_ushiftRight, Nat.shiftRight_eq_div_pow]
      omega
    have hacc : byteResidue (if b.getLsbD 0 then acc ^^^ a else acc) =
        byteResidue acc + byteResidue a * if b.getLsbD 0 then 1 else 0 := by
      cases b.getLsbD 0 <;> simp [byteResidue_xor]
    rw [gfLoop_succ, ih _ _ _ hshift, hacc, byteResidue_gfDouble, byteResidue_eq_shiftRight b]
    ring

/-- `gf_mul` is the product of GF(2)[x] / m(x) (R102). -/
theorem byteResidue_gfMul (a b : Byte) : byteResidue (gfMul a b) = byteResidue a * byteResidue b := by
  rw [gfMul, byteResidue_gfLoop 8 _ a b b.isLt, byteResidue_zero, zero_add]

/-- Settles O10: the product has the class of A(x)·B(x). -/
theorem gfMulIsPolynomialProduct : Obligations.GfMulIsPolynomialProduct := by
  intro a b
  apply bytePolynomial_of_residue
  rw [byteResidue_gfMul, map_mul]
  rfl

/-! ### The laws of the ring -/

theorem gfMul_comm (a b : Byte) : gfMul a b = gfMul b a :=
  byteResidue_injective (by rw [byteResidue_gfMul, byteResidue_gfMul, mul_comm])

theorem gfMul_assoc (a b c : Byte) : gfMul a (gfMul b c) = gfMul (gfMul a b) c :=
  byteResidue_injective (by simp only [byteResidue_gfMul, mul_assoc])

theorem gfMul_xor (a b c : Byte) : gfMul a (b ^^^ c) = gfMul a b ^^^ gfMul a c :=
  byteResidue_injective (by simp only [byteResidue_gfMul, byteResidue_xor, mul_add])

theorem gfMul_one (a : Byte) : gfMul a 0x01#8 = a :=
  byteResidue_injective (by rw [byteResidue_gfMul, byteResidue_one, mul_one])

theorem gfMul_zero (a : Byte) : gfMul a 0x00#8 = 0x00#8 :=
  byteResidue_injective (by rw [byteResidue_gfMul, byteResidue_zero, mul_zero])

theorem one_gfMul (a : Byte) : gfMul 0x01#8 a = a := by rw [gfMul_comm, gfMul_one]

/-! ### Inverses -/

/-- `acc` times the next `n` squarings of `s`: acc · s^2 · s^4 ⋯. -/
def gfMulSquarings : Nat → Byte → Byte → Byte
  | 0, acc, _ => acc
  | n + 1, acc, s => gfMulSquarings n (gfMul acc (gfMul s s)) (gfMul s s)

/-- The inverse in a field of 256 elements is the power 254 = 2 + 4 + ⋯ + 128. -/
def gfInverse (a : Byte) : Byte := gfMulSquarings 7 0x01#8 a

/-- The power 254 inverts each of the 255 nonzero bytes, by evaluation: this is where the choice of m(x) counts, since
modulo a reducible polynomial some of them would have no inverse. -/
theorem gfMul_gfInverse : ∀ a : Byte, a ≠ 0#8 → gfMul a (gfInverse a) = 0x01#8 := by decide +kernel

/-- An inverse is unique, as in every commutative ring. -/
theorem gfMul_inverse_unique {a b c : Byte} (hb : gfMul a b = 0x01#8) (hc : gfMul a c = 0x01#8) : c = b := by
  calc
    c = gfMul (gfMul a b) c := by rw [hb, one_gfMul]
    _ = gfMul b (gfMul a c) := by rw [gfMul_comm a b, gfMul_assoc]
    _ = b := by rw [hc, gfMul_one]

/-- Settles O11: the laws of the ring, and the inverse of each byte but 00. -/
theorem gfMulLaws : Obligations.GfMulLaws :=
  ⟨fun a b c => ⟨gfMul_comm a b, gfMul_one a, gfMul_zero a, gfMul_xor a b c, gfMul_assoc a b c⟩,
    fun a ha => ⟨gfInverse a, gfMul_gfInverse a ha, fun _ hc => gfMul_inverse_unique (gfMul_gfInverse a ha) hc⟩⟩

/-! ### The multipliers of MixColumns -/

/-- Doubling as the rule writes it, with a reduction by 00 when nothing is shifted out (R104). -/
theorem gfDouble_eq (x : Byte) : gfDouble x = (x <<< 1) ^^^ (if x.getLsbD 7 then 0x1B#8 else 0x00#8) := by
  rw [gfDouble]
  cases x.getLsbD 7 with
  | false => exact (BitVec.xor_zero).symm
  | true => rfl

theorem two_gfMul (x : Byte) : gfMul 0x02#8 x = gfDouble x :=
  byteResidue_injective (by rw [byteResidue_gfMul, byteResidue_two, byteResidue_gfDouble])

/-- The multiplier 03 is 02 ^ 01. -/
theorem three_gfMul (x : Byte) : gfMul 0x03#8 x = gfMul 0x02#8 x ^^^ x := by
  calc
    gfMul 0x03#8 x = gfMul x (0x02#8 ^^^ 0x01#8) := gfMul_comm _ _
    _ = gfMul 0x02#8 x ^^^ x := by rw [gfMul_xor, gfMul_one, gfMul_comm]

/-- Settles O12: 01 is the identity, 02 is one doubling, 03 their sum. -/
theorem mixColumnsMultipliers : Obligations.MixColumnsMultipliers := fun x =>
  ⟨one_gfMul x, (two_gfMul x).trans (gfDouble_eq x), three_gfMul x, gfMul_comm _ _, gfMul_comm _ _, gfMul_comm _ _⟩

/-! ### The byte units -/

/-- GFMUL replaces its own port (R100). -/
theorem exec_gfmul (a b : Byte) (s : State) :
    exec (.gfmul a b) s = .next (s.setUnit { s.unit with gfmulP := some (gfMul a b) }) := rfl

/-- SBOX replaces its own port (R110). -/
theorem exec_sbox (x : Byte) (s : State) :
    exec (.sbox x) s = .next (s.setUnit { s.unit with sboxY := some (sboxByte x) }) := rfl

/-- Settles O26: each unit's port, and the table's entry at the flat index. -/
theorem byteUnitsComplete : Obligations.ByteUnitsComplete := fun a b x s =>
  ⟨⟨_, exec_gfmul a b s, rfl⟩, _, exec_sbox x s, _, rfl, sboxTable_flatten_entry x⟩

end Sys2Proof.Machine

/-! The tables of `41_sbox_and_rcon.md` (R110 to R116). The S-Box is the affine image of the inverse in GF(2^8); undoing
the affine map on an entry leaves that inverse, which determines its input, so the S-Box is a bijection, and SUBWORD and
SUBBYTES with it. -/

namespace Sys2Proof.Machine

/-! ### The generating rule of the S-Box -/

/-- `v` is what the generating rule makes of `x` before the affine map: 00 for 00, else the inverse (R113). -/
def IsInverseOrZero (x v : Byte) : Prop := (x = 0#8 → v = 0#8) ∧ (x ≠ 0#8 → gfMul x v = 0x01#8)

theorem IsInverseOrZero.unique {x v w : Byte} (hv : IsInverseOrZero x v) (hw : IsInverseOrZero x w) : v = w := by
  by_cases hx : x = 0#8
  · rw [hv.1 hx, hw.1 hx]
  · exact gfMul_inverse_unique (hw.2 hx) (hv.2 hx)

/-- A product with 00 is not 01, so only 00 goes to 00. -/
theorem IsInverseOrZero.symm {x v : Byte} (h : IsInverseOrZero x v) : IsInverseOrZero v x := by
  by_cases hx : x = 0#8
  · exact ⟨fun _ => hx, fun hv => absurd (h.1 hx) hv⟩
  · refine ⟨?_, fun _ => (gfMul_comm v x).trans (h.2 hx)⟩
    rintro rfl
    have hone := h.2 hx
    rw [gfMul_zero] at hone
    exact absurd hone (by decide)

/-- The affine map of the generating rule (R113). -/
def sboxAffine (v : Byte) : Byte :=
  v ^^^ v.rotateLeft 1 ^^^ v.rotateLeft 2 ^^^ v.rotateLeft 3 ^^^ v.rotateLeft 4 ^^^ 0x63#8

/-- The inverse of the affine map. -/
def sboxAffineInverse (y : Byte) : Byte := y.rotateLeft 1 ^^^ y.rotateLeft 3 ^^^ y.rotateLeft 6 ^^^ 0x05#8

theorem sboxAffine_sboxAffineInverse : ∀ y : Byte, sboxAffine (sboxAffineInverse y) = y := by decide +kernel

/-- The table's 255 entries for a nonzero byte against the multiplier, by evaluation: the table lists its values and
does not compute them (R111, R113). -/
theorem gfMul_sboxAffineInverse_sboxByte :
    ∀ x : Byte, x ≠ 0#8 → gfMul x (sboxAffineInverse (sboxByte x)) = 0x01#8 := by decide +kernel

theorem sboxAffineInverse_sboxByte_zero : sboxAffineInverse (sboxByte 0x00#8) = 0x00#8 := by decide

theorem isInverseOrZero_sboxByte (x : Byte) : IsInverseOrZero x (sboxAffineInverse (sboxByte x)) :=
  ⟨fun hx => hx ▸ sboxAffineInverse_sboxByte_zero, gfMul_sboxAffineInverse_sboxByte x⟩

/-- Settles O15: the rule leaves one choice of `v`, the entry with the affine map undone. -/
theorem sboxGeneratingRule : Obligations.SboxGeneratingRule := by
  intro x v hzero hinverse
  have hv : v = sboxAffineInverse (sboxByte x) :=
    IsInverseOrZero.unique ⟨hzero, hinverse⟩ (isInverseOrZero_sboxByte x)
  calc
    sboxByte x = sboxAffine (sboxAffineInverse (sboxByte x)) := (sboxAffine_sboxAffineInverse _).symm
    _ = sboxAffine v := by rw [hv]

/-! ### Bijections -/

/-- Two bytes with one entry have one inverse (R114). -/
theorem sboxByte_injective : Function.Injective sboxByte := by
  intro x y h
  have hx := isInverseOrZero_sboxByte x
  rw [h] at hx
  exact hx.symm.unique (isInverseOrZero_sboxByte y).symm

/-- A word determines the bytes it is put together from (R55). -/
theorem wordOfBytes_inj {a0 a1 a2 a3 b0 b1 b2 b3 : Byte} (h : wordOfBytes a0 a1 a2 a3 = wordOfBytes b0 b1 b2 b3) :
    a0 = b0 ∧ a1 = b1 ∧ a2 = b2 ∧ a3 = b3 := by
  obtain ⟨ha0, ha1, ha2, ha3⟩ := wordByte_wordOfBytes a0 a1 a2 a3
  obtain ⟨hb0, hb1, hb2, hb3⟩ := wordByte_wordOfBytes b0 b1 b2 b3
  rw [h] at ha0 ha1 ha2 ha3
  exact ⟨ha0.symm.trans hb0, ha1.symm.trans hb1, ha2.symm.trans hb2, ha3.symm.trans hb3⟩

/-- The substituted bytes determine the bytes of the word, and these the word (R114). -/
theorem subWord_injective : Function.Injective subWord := by
  intro w v h
  obtain ⟨h0, h1, h2, h3⟩ := wordOfBytes_inj h
  rw [← wordOfBytes_wordByte w, ← wordOfBytes_wordByte v, sboxByte_injective h0, sboxByte_injective h1,
    sboxByte_injective h2, sboxByte_injective h3]

theorem mapColumn_injective {f : Byte → Byte} (hf : Function.Injective f) : Function.Injective (mapColumn f) := by
  rintro ⟨a0, a1, a2, a3⟩ ⟨b0, b1, b2, b3⟩ h
  simpa only [mapColumn, Column.mk.injEq, hf.eq_iff] using h

/-- SubBytes maps the four columns one by one (R114, R120). -/
theorem subBytes_injective : Function.Injective subBytes := by
  have hcolumn : Function.Injective (mapColumn sboxByte) := mapColumn_injective sboxByte_injective
  rintro ⟨a0, a1, a2, a3⟩ ⟨b0, b1, b2, b3⟩ h
  simpa only [subBytes, StateMatrix.mk.injEq, hcolumn.eq_iff] using h

theorem loadState_injective : Function.Injective loadState := Function.LeftInverse.injective storeState_loadState

theorem storeState_injective : Function.Injective storeState := Function.LeftInverse.injective loadState_storeState

/-- Settles O14: each of the three maps is injective, on a finite type. -/
theorem sboxIsBijective : Obligations.SboxIsBijective :=
  ⟨sboxByte_injective.bijective_of_finite, subWord_injective.bijective_of_finite,
    (storeState_injective.comp (subBytes_injective.comp loadState_injective)).bijective_of_finite⟩

/-! ### The round constants -/

theorem rconTable_length : rconTable.length = 10 := rfl

/-- Each round constant is the double of the one before; the step from 80 to 1b is the first that reduces (R116). -/
theorem rconTable_succ : ∀ j : Nat, j < 9 → rconTable[j + 1]? = (rconTable[j]?).map gfDouble := by decide

/-- Settles O16: the words are the table's ten bytes, each in the top byte, and 02 multiplies by doubling. -/
theorem roundConstantWords : Obligations.RoundConstantWords := by
  have hdouble : gfMul 0x02#8 = gfDouble := funext two_gfMul
  refine ⟨by decide, rconTable_length, rfl, ?_⟩
  rw [hdouble]
  exact rconTable_succ

end Sys2Proof.Machine

/-! The round transforms of `42_round_transforms.md` (R120 to R124). Each transform is given once by what stands in a
cell of its result; matrices with equal cells are equal, so the laws are facts about bytes: SubBytes is the S-Box,
ShiftRows an index computation modulo 4, MixColumns a row of the matrix over the ring of bytes, AddRoundKey the XOR. -/

namespace Sys2Proof.Machine

/-! ### Cells -/

/-- A column is what its four bytes are. -/
theorem column_ext {k l : Column} (h : ∀ r, r < 4 → columnByte k r = columnByte l r) : k = l := by
  obtain ⟨k0, k1, k2, k3⟩ := k
  obtain ⟨l0, l1, l2, l3⟩ := l
  rw [Column.mk.injEq]
  exact ⟨h 0 (by omega), h 1 (by omega), h 2 (by omega), h 3 (by omega)⟩

/-- A matrix is what its sixteen cells are (R21). -/
theorem matrix_ext {m u : StateMatrix} (h : ∀ r c, r < 4 → c < 4 → cell m r c = cell u r c) : m = u := by
  have hcolumn (c : Nat) (hc : c < 4) : matrixColumn m c = matrixColumn u c := column_ext fun r hr => h r c hr hc
  obtain ⟨m0, m1, m2, m3⟩ := m
  obtain ⟨u0, u1, u2, u3⟩ := u
  rw [StateMatrix.mk.injEq]
  exact ⟨hcolumn 0 (by omega), hcolumn 1 (by omega), hcolumn 2 (by omega), hcolumn 3 (by omega)⟩

theorem columnByte_const (b : Byte) (r : Nat) : columnByte ⟨b, b, b, b⟩ r = b := by
  match r with
  | 0 | 1 | 2 | _ + 3 => rfl

theorem cell_zero (r c : Nat) : cell StateMatrix.zero r c = 0#8 := by
  have hcolumn : matrixColumn StateMatrix.zero c = Column.zero := by
    match c with
    | 0 | 1 | 2 | _ + 3 => rfl
  rw [cell, hcolumn]
  exact columnByte_const 0#8 r

theorem columnByte_mapColumn (f : Byte → Byte) (k : Column) (r : Nat) :
    columnByte (mapColumn f k) r = f (columnByte k r) := by
  match r with
  | 0 | 1 | 2 | _ + 3 => rfl

theorem columnByte_xorColumn (k l : Column) (r : Nat) :
    columnByte (xorColumn k l) r = columnByte k r ^^^ columnByte l r := by
  match r with
  | 0 | 1 | 2 | _ + 3 => rfl

theorem matrixColumn_subBytes (m : StateMatrix) (c : Nat) :
    matrixColumn (subBytes m) c = mapColumn sboxByte (matrixColumn m c) := by
  match c with
  | 0 | 1 | 2 | _ + 3 => rfl

theorem matrixColumn_mixColumns (m : StateMatrix) (c : Nat) :
    matrixColumn (mixColumns m) c = mixColumn (matrixColumn m c) := by
  match c with
  | 0 | 1 | 2 | _ + 3 => rfl

theorem matrixColumn_addRoundKey (m k : StateMatrix) (c : Nat) :
    matrixColumn (addRoundKey m k) c = xorColumn (matrixColumn m c) (matrixColumn k c) := by
  match c with
  | 0 | 1 | 2 | _ + 3 => rfl

/-- SubBytes is the S-Box on each cell (R120). -/
theorem cell_subBytes (m : StateMatrix) (r c : Nat) : cell (subBytes m) r c = sboxByte (cell m r c) := by
  rw [cell, matrixColumn_subBytes, columnByte_mapColumn, cell]

/-- AddRoundKey is the XOR of each cell (R123). -/
theorem cell_addRoundKey (m k : StateMatrix) (r c : Nat) : cell (addRoundKey m k) r c = cell m r c ^^^ cell k r c := by
  rw [cell, matrixColumn_addRoundKey, columnByte_xorColumn, cell, cell]

/-- ShiftRows takes each cell from `r` columns further right, around the row (R121). -/
theorem cell_shiftRows (m : StateMatrix) {r c : Nat} (hr : r < 4) (hc : c < 4) :
    cell (shiftRows m) r c = cell m r ((c + r) % 4) := by
  interval_cases r <;> interval_cases c <;> rfl

/-- The same, told from the cell it moves: `r` columns to the left (R121). -/
theorem cell_shiftRows_target (m : StateMatrix) {r c : Nat} (hr : r < 4) (hc : c < 4) :
    cell (shiftRows m) r ((c + 4 - r) % 4) = cell m r c := by
  have hback : ((c + 4 - r) % 4 + r) % 4 = c := by omega
  rw [cell_shiftRows m hr (Nat.mod_lt _ (by omega)), hback]

/-! ### SubBytes -/

theorem sboxByte_zero : sboxByte 0x00#8 = 0x63#8 := by decide

theorem sboxByte_52 : sboxByte 0x52#8 = 0x00#8 := by decide

/-- 00 goes to 63 and 63 to fb, not back to 00. -/
theorem subBytes_subBytes_zero_ne : subBytes (subBytes StateMatrix.zero) ≠ StateMatrix.zero := by
  intro h
  have hcell : cell (subBytes (subBytes StateMatrix.zero)) 0 0 = 0x00#8 := by rw [h, cell_zero]
  rw [cell_subBytes, cell_subBytes, cell_zero] at hcell
  exact absurd hcell (by decide)

/-- Settles O19: each corner case is one entry of the S-Box. -/
theorem subBytesByCells : Obligations.SubBytesByCells := by
  refine ⟨fun m r c _ _ => cell_subBytes m r c, fun r c => ?_, fun m h => matrix_ext fun r c _ _ => ?_,
    subBytes_subBytes_zero_ne⟩
  · rw [cell_subBytes, cell_zero, sboxByte_zero]
  · rw [cell_subBytes, h r c, sboxByte_52, cell_zero]

/-! ### ShiftRows -/

/-- Byte `b` of a stored matrix by row and column (R56). -/
theorem blockByte_storeState_divMod (m : StateMatrix) {b : Nat} (hb : b < 16) :
    blockByte (storeState m) b = cell m (b % 4) (b / 4) := by
  rw [← blockByte_storeState m (Nat.mod_lt b (by omega)) (by omega : b / 4 < 4), Nat.mod_add_div]

/-- Byte `b` of a block by row and column (R56). -/
theorem cell_loadState_divMod (p : Block) {b : Nat} (hb : b < 16) :
    cell (loadState p) (b % 4) (b / 4) = blockByte p b := by
  rw [cell_loadState p (Nat.mod_lt b (by omega)) (by omega : b / 4 < 4), Nat.mod_add_div]

/-- SHIFTROWS on its ports: output byte `r + 4c` is input byte `r + 4((c + r) mod 4)` (R121). -/
theorem blockByte_shiftRows (p : Block) {r c : Nat} (hr : r < 4) (hc : c < 4) :
    blockByte (storeState (shiftRows (loadState p))) (r + 4 * c) = blockByte p (r + 4 * ((c + r) % 4)) := by
  rw [blockByte_storeState _ hr hc, cell_shiftRows _ hr hc, cell_loadState p hr (Nat.mod_lt _ (by omega))]

/-- The permutation table of R121 is the rotation, read through `b = r + 4c`. -/
theorem shiftSource_getD : ∀ b, b < 16 → shiftSource.getD b 0 = b % 4 + 4 * ((b / 4 + b % 4) % 4) := by decide

/-- The inverse table of R121 leads to the place whose source is `b`. -/
theorem shiftSource_shiftTarget : ∀ b, b < 16 → shiftTarget.getD b 0 < 16 ∧
    shiftSource.getD (shiftTarget.getD b 0) 0 = b := by decide

/-- SHIFTROWS on its ports by the permutation table (R121). -/
theorem blockByte_shiftRows_source (p : Block) {b : Nat} (hb : b < 16) :
    blockByte (storeState (shiftRows (loadState p))) b = blockByte p (shiftSource.getD b 0) := by
  have hbyte := blockByte_shiftRows p (Nat.mod_lt b (by omega)) (by omega : b / 4 < 4)
  rwa [Nat.mod_add_div, ← shiftSource_getD b hb] at hbyte

/-- SHIFTROWS on its ports by the inverse table (R121). -/
theorem blockByte_shiftRows_target (p : Block) {b : Nat} (hb : b < 16) :
    blockByte (storeState (shiftRows (loadState p))) (shiftTarget.getD b 0) = blockByte p b := by
  obtain ⟨hplace, hsource⟩ := shiftSource_shiftTarget b hb
  rw [blockByte_shiftRows_source p hplace, hsource]

/-- Row `r` moves by `4r` columns in all, a multiple of the row's length. -/
theorem shiftRows_four_times (m : StateMatrix) : shiftRows (shiftRows (shiftRows (shiftRows m))) = m := by
  refine matrix_ext fun r c hr hc => ?_
  have hmod (n : Nat) : n % 4 < 4 := Nat.mod_lt n (by omega)
  have hcolumn : ((((c + r) % 4 + r) % 4 + r) % 4 + r) % 4 = c := by omega
  rw [cell_shiftRows _ hr hc, cell_shiftRows _ hr (hmod _), cell_shiftRows _ hr (hmod _),
    cell_shiftRows _ hr (hmod _), hcolumn]

/-- One moves the cells, the other acts on each by itself (R121). -/
theorem shiftRows_subBytes (m : StateMatrix) : shiftRows (subBytes m) = subBytes (shiftRows m) :=
  matrix_ext fun r c hr hc => by rw [cell_shiftRows _ hr hc, cell_subBytes, cell_subBytes, cell_shiftRows _ hr hc]

/-- Settles O20: the rotation by cells, and through `b = r + 4c` the two tables. -/
theorem shiftRowsByCells : Obligations.ShiftRowsByCells :=
  ⟨fun m _ _ => cell_shiftRows m, fun m _ _ => cell_shiftRows_target m,
    fun p _ hb => ⟨blockByte_shiftRows_source p hb, blockByte_shiftRows_target p hb⟩, fun _ => rfl,
    shiftRows_four_times, shiftRows_subBytes⟩

/-- The table of sources names each of the sixteen bytes once (R124). -/
theorem shiftSource_perm : shiftSource.Perm (List.range 16) := by decide

/-- The bytes after ShiftRows, in order, are the bytes before it at the table's places (R121). -/
theorem map_blockByte_shiftRows (p : Block) :
    (List.range 16).map (blockByte (storeState (shiftRows (loadState p)))) = shiftSource.map (blockByte p) := by
  have hsource : shiftSource = (List.range 16).map (shiftSource.getD · 0) := by decide
  rw [hsource, List.map_map]
  exact List.map_congr_left fun b hb => hsource ▸ blockByte_shiftRows_source p (List.mem_range.1 hb)

/-! ### AddRoundKey -/

theorem addRoundKey_addRoundKey (m k : StateMatrix) : addRoundKey (addRoundKey m k) k = m :=
  matrix_ext fun r c _ _ => by
    rw [cell_addRoundKey, cell_addRoundKey, BitVec.xor_assoc, BitVec.xor_self, BitVec.xor_zero]

theorem addRoundKey_comm (m k : StateMatrix) : addRoundKey m k = addRoundKey k m :=
  matrix_ext fun r c _ _ => by rw [cell_addRoundKey, cell_addRoundKey, BitVec.xor_comm]

theorem addRoundKey_zero (m : StateMatrix) : addRoundKey m StateMatrix.zero = m :=
  matrix_ext fun r c _ _ => by rw [cell_addRoundKey, cell_zero, BitVec.xor_zero]

theorem addRoundKey_self (m : StateMatrix) : addRoundKey m m = StateMatrix.zero :=
  matrix_ext fun r c _ _ => by rw [cell_addRoundKey, BitVec.xor_self, cell_zero]

theorem loadState_zero : loadState 0#128 = StateMatrix.zero := by decide

/-- A byte of an XOR is the XOR of the bytes. -/
theorem blockByte_xor (p q : Block) (b : Nat) : blockByte (p ^^^ q) b = blockByte p b ^^^ blockByte q b :=
  BitVec.extractLsb'_xor

/-- The XOR of two blocks is loaded as their AddRoundKey (R123). -/
theorem loadState_xor (s k : Block) : loadState (s ^^^ k) = addRoundKey (loadState s) (loadState k) :=
  matrix_ext fun r c hr hc => by
    rw [cell_addRoundKey, cell_loadState _ hr hc, cell_loadState _ hr hc, cell_loadState _ hr hc, blockByte_xor]

/-- ADDROUNDKEY on its ports (R123). -/
theorem storeState_addRoundKey (s k : Block) : storeState (addRoundKey (loadState s) (loadState k)) = s ^^^ k := by
  rw [← loadState_xor, storeState_loadState]

/-- Cell `(r, c)` of a round key's matrix is byte `r` of `RK[4k + c]` (R58). -/
theorem cell_loadState_roundKey (rk : Vector Word 44) (k : Nat) {r c : Nat} (hr : r < 4) (hc : c < 4) :
    cell (loadState (roundKey rk k)) r c = wordByte (rkWord rk (4 * k + c)) r :=
  (cell_loadState _ hr hc).trans (blockByte_roundKey rk k hr hc)

/-- Settles O23: the XOR by cells, by blocks, and with a cell of the round key as a byte of the schedule. -/
theorem addRoundKeyIsXor : Obligations.AddRoundKeyIsXor := by
  refine ⟨fun m k r c _ _ => cell_addRoundKey m k r c, storeState_addRoundKey, fun m rk k r c _ hr hc => ?_,
    fun m k => ⟨addRoundKey_addRoundKey m k, addRoundKey_comm m k⟩, fun m => ⟨?_, addRoundKey_self m⟩⟩
  · rw [cell_addRoundKey, cell_loadState_roundKey rk k hr hc, wordByte]
  · rw [loadState_zero, addRoundKey_zero]

/-- Settles O21: XOR cancels, the table of ShiftRows is a permutation, and the S-Box is injective. -/
theorem roundTransformProperties : Obligations.RoundTransformProperties := by
  refine ⟨addRoundKey_addRoundKey, fun p => ?_, fun m u r c _ _ => ?_⟩
  · rw [map_blockByte_shiftRows]
    exact shiftSource_perm.map _
  · rw [cell_subBytes, cell_subBytes, sboxByte_injective.eq_iff]

/-! ### MixColumns -/

/-- MixColumns is row `r` of the matrix times the column: the rule's four equations leave out the factors 01 (R122). -/
theorem columnByte_mixColumn (k : Column) {r : Nat} (hr : r < 4) :
    columnByte (mixColumn k) r = gfMul (mixEntry r 0) k.r0 ^^^ gfMul (mixEntry r 1) k.r1 ^^^
      gfMul (mixEntry r 2) k.r2 ^^^ gfMul (mixEntry r 3) k.r3 := by
  match r, hr with
  | 0, _ | 1, _ | 2, _ | 3, _ => simp [columnByte, mixColumn, mixEntry, mixMatrix, one_gfMul]

/-- The matrix row by cells (R122). -/
theorem cell_mixColumns (m : StateMatrix) {r : Nat} (hr : r < 4) (c : Nat) :
    cell (mixColumns m) r c = gfMul (mixEntry r 0) (cell m 0 c) ^^^ gfMul (mixEntry r 1) (cell m 1 c) ^^^
      gfMul (mixEntry r 2) (cell m 2 c) ^^^ gfMul (mixEntry r 3) (cell m 3 c) := by
  rw [cell, matrixColumn_mixColumns, columnByte_mixColumn _ hr]
  rfl

/-- The entries of each row add up to 01: 02 ^ 03 ^ 01 ^ 01. -/
theorem mixEntry_row_xor : ∀ r, r < 4 → mixEntry r 0 ^^^ mixEntry r 1 ^^^ mixEntry r 2 ^^^ mixEntry r 3 = 0x01#8 := by
  decide

theorem xor_gfMul (a b c : Byte) : gfMul (a ^^^ b) c = gfMul a c ^^^ gfMul b c := by
  rw [gfMul_comm, gfMul_xor, gfMul_comm c a, gfMul_comm c b]

/-- Four equal bytes are multiplied by the sum of a row, which is 01 (R122). -/
theorem mixColumn_const (b : Byte) : mixColumn ⟨b, b, b, b⟩ = ⟨b, b, b, b⟩ := by
  refine column_ext fun r hr => ?_
  rw [columnByte_mixColumn _ hr, ← xor_gfMul, ← xor_gfMul, ← xor_gfMul, mixEntry_row_xor r hr, one_gfMul,
    columnByte_const]

/-- Each product distributes over XOR, and the eight terms are regrouped (R122). -/
theorem mixColumn_xorColumn (k l : Column) : mixColumn (xorColumn k l) = xorColumn (mixColumn k) (mixColumn l) := by
  refine column_ext fun r hr => ?_
  rw [columnByte_xorColumn, columnByte_mixColumn _ hr, columnByte_mixColumn _ hr, columnByte_mixColumn _ hr]
  simp only [xorColumn, gfMul_xor]
  ac_rfl

theorem mixColumns_addRoundKey (m u : StateMatrix) :
    mixColumns (addRoundKey m u) = addRoundKey (mixColumns m) (mixColumns u) := by
  simp only [mixColumns, addRoundKey, mixColumn_xorColumn]

/-- Settles O22: the matrix by cells; on a unit column only one product is left. -/
theorem mixColumnsIsTheMatrix : Obligations.MixColumnsIsTheMatrix := by
  refine ⟨fun m r c hr _ => cell_mixColumns m hr c, mixColumn_const, mixColumns_addRoundKey, fun r hr => ?_⟩
  simp [columnByte_mixColumn _ hr, gfMul_zero, gfMul_one]

/-! ### The transform modules -/

/-- SUBBYTES replaces its own port (R120). -/
theorem exec_subbytes (v : Block) (s : State) :
    exec (.subbytes v) s =
      .next (s.setUnit { s.unit with subbytesOut := some (storeState (subBytes (loadState v))) }) := rfl

/-- SHIFTROWS replaces its own port (R121). -/
theorem exec_shiftrows (v : Block) (s : State) :
    exec (.shiftrows v) s =
      .next (s.setUnit { s.unit with shiftrowsOut := some (storeState (shiftRows (loadState v))) }) := rfl

/-- MIXCOLUMNS replaces its own port (R122). -/
theorem exec_mixcolumns (v : Block) (s : State) :
    exec (.mixcolumns v) s =
      .next (s.setUnit { s.unit with mixcolumnsOut := some (storeState (mixColumns (loadState v))) }) := rfl

/-- ADDROUNDKEY replaces its own port by the XOR of its operands (R123). -/
theorem exec_addroundkey (v k : Block) (s : State) :
    exec (.addroundkey v k) s = .next (s.setUnit { s.unit with addroundkeyOut := some (v ^^^ k) }) := by
  rw [← storeState_addRoundKey]
  rfl

/-- SUBBYTES on its ports: output byte `b` is the S-Box of input byte `b` (R120). -/
theorem blockByte_subBytes (p : Block) {b : Nat} (hb : b < 16) :
    blockByte (storeState (subBytes (loadState p))) b = sboxByte (blockByte p b) := by
  rw [blockByte_storeState_divMod _ hb, cell_subBytes, cell_loadState_divMod p hb]

/-- MIXCOLUMNS on its ports: row `r` of the matrix times input column `c` (R122). -/
theorem blockByte_mixColumns (p : Block) {r c : Nat} (hr : r < 4) (hc : c < 4) :
    blockByte (storeState (mixColumns (loadState p))) (r + 4 * c) =
      gfMul (mixEntry r 0) (blockByte p (4 * c)) ^^^ gfMul (mixEntry r 1) (blockByte p (1 + 4 * c)) ^^^
        gfMul (mixEntry r 2) (blockByte p (2 + 4 * c)) ^^^ gfMul (mixEntry r 3) (blockByte p (3 + 4 * c)) := by
  rw [blockByte_storeState _ hr hc, cell_mixColumns _ hr, cell_loadState p (by omega) hc,
    cell_loadState p (by omega) hc, cell_loadState p (by omega) hc, cell_loadState p (by omega) hc, Nat.zero_add]

/-- Settles O27: each module's port, byte by byte. -/
theorem transformUnitsComplete : Obligations.TransformUnitsComplete := fun v k s =>
  ⟨⟨_, _, exec_subbytes v s, rfl, fun _ => blockByte_subBytes v⟩,
    ⟨_, _, exec_shiftrows v s, rfl, fun _ _ => blockByte_shiftRows v⟩,
    ⟨_, _, exec_mixcolumns v s, rfl, fun _ _ => blockByte_mixColumns v⟩, ⟨_, exec_addroundkey v k s, rfl⟩⟩

end Sys2Proof.Machine

/-! The key scheduler of `43_key_scheduler.md` (R140 to R151): RotWord and SubWord by what stands in a byte of their
result, the recurrence of `expand_key`, the two operations that write the schedule, and their run as a key expansion. -/

namespace Sys2Proof.Machine

/-! ### RotWord and SubWord by bytes -/

/-- Words with the same four bytes are the same word (R55). -/
theorem word_ext {w v : Word} (h : ∀ n, n < 4 → wordByte w n = wordByte v n) : w = v := by
  rw [← wordOfBytes_wordByte w, ← wordOfBytes_wordByte v, h 0 (by omega), h 1 (by omega), h 2 (by omega),
    h 3 (by omega)]

/-- Byte `n` of a word given by a byte function of four indices is the function's value (R55). -/
theorem wordByte_wordOfBytes_apply (f : Nat → Byte) {n : Nat} (hn : n < 4) :
    wordByte (wordOfBytes (f 0) (f 1) (f 2) (f 3)) n = f n := by
  obtain ⟨h0, h1, h2, h3⟩ := wordByte_wordOfBytes (f 0) (f 1) (f 2) (f 3)
  match n, hn with
  | 0, _ => exact h0
  | 1, _ => exact h1
  | 2, _ => exact h2
  | 3, _ => exact h3

/-- RotWord moves every byte up by one place, the top byte to the bottom (R140). -/
theorem wordByte_rotWord (w : Word) {n : Nat} (hn : n < 4) : wordByte (rotWord w) n = wordByte w ((n + 1) % 4) := by
  refine BitVec.eq_of_getLsbD_eq fun i hi => ?_
  simp only [wordByte, rotWord, BitVec.getLsbD_extractLsb', BitVec.getLsbD_rotateLeft, hi, decide_true, Bool.true_and]
  by_cases hbottom : n = 3
  · subst hbottom
    simp [hi]
  · have hnext : (n + 1) % 4 = n + 1 := Nat.mod_eq_of_lt (by omega)
    have hpart : ¬ 24 - 8 * n + i < 8 % 32 := by omega
    have hword : 24 - 8 * n + i < 32 := by omega
    have hindex : 24 - 8 * n + i - 8 % 32 = 24 - 8 * (n + 1) + i := by omega
    rw [hnext, decide_eq_false hpart, decide_eq_true hword, cond_false, Bool.true_and, hindex]

/-- SubWord puts the S-Box's value in each byte's place (R141). -/
theorem wordByte_subWord (w : Word) {n : Nat} (hn : n < 4) : wordByte (subWord w) n = sboxByte (wordByte w n) :=
  wordByte_wordOfBytes_apply (fun n => sboxByte (wordByte w n)) hn

theorem rotWord_eq_shifts (w : Word) : rotWord w = (w <<< 8) ||| (w >>> 24) := BitVec.rotateLeft_def

theorem rotWord_wordOfBytes (b0 b1 b2 b3 : Byte) : rotWord (wordOfBytes b0 b1 b2 b3) = wordOfBytes b1 b2 b3 b0 := by
  obtain ⟨h0, h1, h2, h3⟩ := wordByte_wordOfBytes b0 b1 b2 b3
  obtain ⟨k0, k1, k2, k3⟩ := wordByte_wordOfBytes b1 b2 b3 b0
  refine word_ext fun n hn => ?_
  rw [wordByte_rotWord _ hn]
  match n, hn with
  | 0, _ => exact h1.trans k0.symm
  | 1, _ => exact h2.trans k1.symm
  | 2, _ => exact h3.trans k2.symm
  | 3, _ => exact h0.trans k3.symm

theorem subWord_wordOfBytes (b0 b1 b2 b3 : Byte) :
    subWord (wordOfBytes b0 b1 b2 b3) = wordOfBytes (sboxByte b0) (sboxByte b1) (sboxByte b2) (sboxByte b3) := by
  obtain ⟨h0, h1, h2, h3⟩ := wordByte_wordOfBytes b0 b1 b2 b3
  rw [subWord, h0, h1, h2, h3]

/-- Four steps of one place bring every byte back (R140). -/
theorem rotWord_four_times (w : Word) : rotWord (rotWord (rotWord (rotWord w))) = w := by
  rw [← wordOfBytes_wordByte w]
  simp only [rotWord_wordOfBytes]

/-- Moving a byte and substituting it are independent (R140, R141). -/
theorem subWord_rotWord (w : Word) : subWord (rotWord w) = rotWord (subWord w) := by
  rw [← wordOfBytes_wordByte w]
  simp only [rotWord_wordOfBytes, subWord_wordOfBytes]

/-- Settles O24: both operations by bytes; four equal bytes are a special case. -/
theorem wordOperationsOnBytes : Obligations.WordOperationsOnBytes :=
  ⟨rotWord_eq_shifts, rotWord_wordOfBytes, fun b => rotWord_wordOfBytes b b b b, rotWord_four_times,
    subWord_wordOfBytes, by decide, subWord_rotWord⟩

/-! ### The word units -/

/-- A round-constant word has the table's byte on top and zeros below (R142). -/
theorem rconWord_bits (j : Nat) :
    (rconWord j).extractLsb' 0 24 = 0#24 ∧ (rconWord j).extractLsb' 24 8 = rconTable.getD j 0#8 := by
  constructor
  · refine BitVec.eq_of_getLsbD_eq fun i hi => ?_
    simp [rconWord, hi]
  · refine BitVec.eq_of_getLsbD_eq fun i hi => ?_
    simp [rconWord, hi, show 24 + i < 32 by omega]

/-- The ten indices are all in the table, so no default is read (R52, R116). -/
theorem rconTable_entry {j : Nat} (hj : j ≤ 9) : rconTable[j]? = some ((rconWord j).extractLsb' 24 8) := by
  have hlt : j < rconTable.length := Nat.lt_succ_of_le hj
  rw [(rconWord_bits j).2, List.getD_eq_getElem _ _ hlt, List.getElem?_eq_getElem hlt]

/-- ROTWORD replaces its own port (R140). -/
theorem exec_rotword (w : Word) (s : State) :
    exec (.rotword w) s = .next (s.setUnit { s.unit with rotwordOut := some (rotWord w) }) := rfl

/-- SUBWORD replaces its own port (R141). -/
theorem exec_subword (w : Word) (s : State) :
    exec (.subword w) s = .next (s.setUnit { s.unit with subwordOut := some (subWord w) }) := rfl

/-- RCONW of a legal index replaces its own port (R142). -/
theorem exec_rconw_legal {j : Nibble} (s : State) (hj : j.toNat ≤ 9) :
    exec (.rconw j) s = .next (s.setUnit { s.unit with rconwOut := some (rconWord j.toNat) }) :=
  if_pos (decide_eq_true (Nat.lt_succ_of_le hj))

/-- Settles O28: each unit's port, read as shifts, byte by byte, and against the table. -/
theorem wordUnitsComplete : Obligations.WordUnitsComplete := fun w _ s =>
  ⟨⟨_, exec_rotword w s, congrArg some (rotWord_eq_shifts w)⟩,
    ⟨_, _, exec_subword w s, rfl, fun _ => wordByte_subWord w⟩,
    fun hj => ⟨_, _, exec_rconw_legal s hj, rfl, (rconWord_bits _).1, rconTable_entry hj⟩⟩

/-! ### The recurrence of `expand_key` -/

theorem expandTail_length (n i : Nat) (w0 w1 w2 w3 : Word) : (expandTail n i w0 w1 w2 w3).length = n := by
  induction n generalizing i w0 w1 w2 w3 with
  | zero => rfl
  | succ n ih => rw [expandTail, List.length_cons, ih]

/-- Four words and the `n` words the recurrence adds to them: word `k + 4` comes from the words `k` and `k + 3` (R144).
The list without its first word is such a list again, for `n - 1`. -/
theorem expandTail_recurrence (n i k : Nat) (w0 w1 w2 w3 : Word) (hk : k < n) :
    (w0 :: w1 :: w2 :: w3 :: expandTail n i w0 w1 w2 w3)[k + 4]? =
      some ((w0 :: w1 :: w2 :: w3 :: expandTail n i w0 w1 w2 w3).getD k 0#32 ^^^
        ksTemp (i + k) ((w0 :: w1 :: w2 :: w3 :: expandTail n i w0 w1 w2 w3).getD (k + 3) 0#32)) := by
  induction n generalizing i k w0 w1 w2 w3 with
  | zero => exact absurd hk (Nat.not_lt_zero k)
  | succ n ih =>
    cases k with
    | zero => rfl
    | succ k =>
      have htail := ih (i + 1) k w1 w2 w3 (w0 ^^^ ksTemp i w3) (Nat.lt_of_succ_lt_succ hk)
      rw [Nat.succ_add_eq_add_succ] at htail
      exact htail

/-- `expand_key` is such a list, with 40 words after the key's (R144). -/
theorem expandKey_eq_cons (key : Block) : expandKey key =
    blockWord key 0 :: blockWord key 1 :: blockWord key 2 :: blockWord key 3 ::
      expandTail 40 4 (blockWord key 0) (blockWord key 1) (blockWord key 2) (blockWord key 3) := by
  simp only [expandKey, List.cons_append, List.nil_append]

/-- Settles O25: `expand_key` is the recurrence from the key's four words on. -/
theorem expandKeyRecurrence : Obligations.ExpandKeyRecurrence := by
  intro key
  rw [expandKey_eq_cons]
  refine ⟨?_, fun j hj => ?_, fun i h4 h44 => ?_, blockOfWords_blockWord key⟩
  · simp only [List.length_cons, expandTail_length]
  · generalize expandTail 40 4 _ _ _ _ = tail
    match j, hj with
    | 0, _ | 1, _ | 2, _ | 3, _ => rfl
  · obtain ⟨k, rfl⟩ := Nat.exists_eq_add_of_le' h4
    rw [Nat.add_sub_cancel, show k + 4 - 1 = k + 3 from rfl, expandTail_recurrence 40 4 k _ _ _ _ (by omega),
      Nat.add_comm 4 k]

/-! ### The operations that write the schedule -/

/-- EXPAND_KEY at rest is KS_LOAD (R163). -/
theorem exec_expandKey_of_atRest {s : State} (n : Byte) (key : Block) (ha : s.atRest = true) :
    exec (.expandKey n key) s = .next (s.ksLoad n key) := State.acceptAtRest_of_atRest _ ha

/-- KS_LOAD with a key of 16 bytes (R146, good branch). -/
theorem State.ksLoad_sixteen (s : State) (key : Block) :
    s.ksLoad 16#8 key = ((((s.loadKeyWords key).setKi 4#6).setKeyValid false).setErr false).setPhase Phase.ks.code :=
  if_pos ((keyLengthOk_iff 16#8).2 rfl)

/-- KS_LOAD writes the key's words in front and leaves the others (R146). -/
theorem State.rkWord_ksLoad_sixteen (s : State) (key : Block) (j : Nat) :
    rkWord (s.ksLoad 16#8 key).rk j = if j < 4 then blockWord key j else rkWord s.rk j := by
  rw [State.ksLoad_sixteen, State.setPhase_rk, State.setErr_rk, State.setKeyValid_rk, State.setKi_rk,
    State.rkWord_loadKeyWords]

/-- KS_LOAD's other assignments, and what it leaves alone (R146, R33). -/
theorem State.ksLoad_sixteen_frame (s : State) (key : Block) :
    ((s.ksLoad 16#8 key).ki = 4#6 ∧ (s.ksLoad 16#8 key).keyValid = false ∧ (s.ksLoad 16#8 key).err = false ∧
        (s.ksLoad 16#8 key).phase = Phase.ks.code) ∧
      (s.ksLoad 16#8 key).st = s.st ∧ (s.ksLoad 16#8 key).rnd = s.rnd ∧ s.sameSurroundings (s.ksLoad 16#8 key) ∧
      (s.ksLoad 16#8 key).draws = s.draws := by
  simp [State.ksLoad_sixteen, State.loadKeyWords, State.sameSurroundings]

/-- Settles O32: the four words by the rule of KS_LOAD's writes, the rest by the assignments. -/
theorem expandKeyLoadsTheKey : Obligations.ExpandKeyLoadsTheKey := by
  intro key s hp
  obtain ⟨⟨hki, hvalid, herr, hks⟩, hst, hrnd, hsame, hdraws⟩ := s.ksLoad_sixteen_frame key
  have hword := s.rkWord_ksLoad_sixteen key
  exact ⟨_, exec_expandKey_of_atRest _ key ((State.atRest_iff s).2 hp), hword 0, hword 1, hword 2, hword 3, hki,
    hvalid, herr, hks, hst, hrnd, fun j h4 _ => (hword j).trans (if_neg (Nat.not_lt.2 h4)), hsame, hdraws⟩

/-- KS_WORD with `KI` in 4..43 makes the assignments of R147. -/
theorem exec_ksWord_of_range {s : State} (h4 : 4 ≤ s.ki.toNat) (h43 : s.ki.toNat ≤ 43) :
    exec .ksWord s = .next (s.ksWordWrite s.ki.toNat) := if_pos ⟨h4, h43⟩

/-- KS_WORD writes the word that the recurrence asks for (R143, R147). -/
theorem State.ksWordWrite_rk (s : State) (i : Nat) : (s.ksWordWrite i).rk =
    s.rk.setIfInBounds i (rkWord s.rk (i - 4) ^^^ ksTemp i (rkWord s.rk (i - 1))) := by
  rcases s.ksWordWrite_cases i with ⟨-, e⟩ | ⟨-, e⟩ <;> rw [e] <;> rfl

/-- KS_WORD returns to IDLE with its last word and keeps the phase before (R147). -/
theorem State.ksWordWrite_phase (s : State) (i : Nat) :
    (s.ksWordWrite i).phase = if i = 43 then Phase.idle.code else s.phase := by
  rcases s.ksWordWrite_cases i with ⟨hi, e⟩ | ⟨hi, e⟩ <;> rw [e]
  · rw [if_pos hi]; rfl
  · rw [if_neg hi]; rfl

/-- What every KS_WORD does alike: it advances `KI`, and touches no other register than the schedule's (R147, R33). -/
theorem State.ksWordWrite_frame (s : State) (i : Nat) :
    (s.ksWordWrite i).ki = s.ki + 1#6 ∧ (s.ksWordWrite i).st = s.st ∧ (s.ksWordWrite i).rnd = s.rnd ∧
      (s.ksWordWrite i).err = s.err ∧ s.sameSurroundings (s.ksWordWrite i) ∧ (s.ksWordWrite i).draws = s.draws := by
  rcases s.ksWordWrite_cases i with ⟨-, e⟩ | ⟨-, e⟩ <;> rw [e] <;> exact ⟨rfl, rfl, rfl, rfl, ⟨rfl, rfl⟩, rfl⟩

/-- `KI` does not wrap in 4..43 (R25). -/
theorem State.ksWordWrite_ki_toNat {s : State} (i : Nat) (h43 : s.ki.toNat ≤ 43) :
    (s.ksWordWrite i).ki.toNat = s.ki.toNat + 1 := by
  rw [(s.ksWordWrite_frame i).1]
  bv_omega

theorem ksTemp_of_mod_eq_zero {i : Nat} (p : Word) (h : i % 4 = 0) :
    ksTemp i p = subWord (rotWord p) ^^^ rconWord (i / 4 - 1) := if_pos h

theorem ksTemp_of_mod_ne_zero {i : Nat} (p : Word) (h : i % 4 ≠ 0) : ksTemp i p = p := if_neg h

/-- Settles O38: one word by the recurrence's two cases, the last word's flag and phase, and the frame. -/
theorem ksWordWritesOneWord : Obligations.KsWordWritesOneWord := by
  intro s h4 h43
  obtain ⟨-, hst, hrnd, herr, hsame, hdraws⟩ := s.ksWordWrite_frame s.ki.toNat
  have hread (j : Nat) : rkWord (s.ksWordWrite s.ki.toNat).rk j =
      if j = s.ki.toNat then rkWord s.rk (s.ki.toNat - 4) ^^^ ksTemp s.ki.toNat (rkWord s.rk (s.ki.toNat - 1))
      else rkWord s.rk j := by
    rw [State.ksWordWrite_rk, rkWord_set _ _ _ _ (by omega)]
  have hlast : s.ki = 43#6 ↔ s.ki.toNat = 43 := BitVec.toNat_inj.symm
  refine ⟨_, exec_ksWord_of_range h4 h43, fun h => ?_, fun h => ?_, State.ksWordWrite_ki_toNat _ h43, fun h => ?_,
    fun h => ?_, fun j _ hj => (hread j).trans (if_neg hj), hst, hrnd, herr, hsame, hdraws⟩
  · rw [hread, if_pos rfl, ksTemp_of_mod_eq_zero _ h]
  · rw [hread, if_pos rfl, ksTemp_of_mod_ne_zero _ h]
  · rw [State.ksWordWrite_keyValid, State.ksWordWrite_phase, if_pos (hlast.1 h), if_pos (hlast.1 h)]
    exact ⟨rfl, rfl⟩
  · rw [State.ksWordWrite_keyValid, State.ksWordWrite_phase, if_neg (mt hlast.2 h), if_neg (mt hlast.2 h)]
    exact ⟨rfl, rfl⟩

/-! ### A key expansion step by step -/

/-- One more step of a run that has reached a next state. -/
theorem run_succ_of_next (M : Host.Core) {k : Nat} {s u : M.State} (h : M.run k s = .next u) :
    M.run (k + 1) s = M.step u := by
  induction k generalizing s with
  | zero =>
    cases h
    rw [Host.Core.run]
    cases M.step u <;> rfl
  | succ k ih =>
    rw [Host.Core.run] at h ⊢
    cases hs : M.step s with
    | next t =>
      rw [hs] at h
      exact ih h
    | fault | refused =>
      rw [hs] at h
      cases h

/-- What an expansion of `key`, begun in `s`, promises of a state `t` on its way or at its end: the invariants, the
key's words in front, `ST` and `RND` as they were (R25, R146, R147). -/
structure State.Expands (s : State) (key : Block) (t : State) : Prop where
  inv : t.Inv
  key : roundKey t.rk 0 = key
  st : t.st = s.st
  rnd : t.rnd = s.rnd

/-- Accepting EXPAND_KEY begins an expansion (R146); nothing is asked of the state before. -/
theorem State.Expands.ksLoad (s : State) (key : Block) : s.Expands key (s.taken.ksLoad 16#8 key) := by
  obtain ⟨⟨hki, hvalid, herr, hks⟩, hst, hrnd, -⟩ := s.taken.ksLoad_sixteen_frame key
  have hword (j : Nat) (hj : j < 4) : rkWord (s.taken.ksLoad 16#8 key).rk j = blockWord key j :=
    (s.taken.rkWord_ksLoad_sixteen key j).trans (if_pos hj)
  have hkey : roundKey (s.taken.ksLoad 16#8 key).rk 0 = key := by
    rw [roundKey, hword 0 (by omega), hword 1 (by omega), hword 2 (by omega), hword 3 (by omega)]
    exact blockOfWords_blockWord key
  refine ⟨State.inv_of_ks hks ?_ hvalid herr ?_, hkey, hst, hrnd⟩
  · rw [hki]
    decide
  · rw [hki]
    exact fun _ h4 hi => absurd h4 (Nat.not_le_of_lt hi)

/-- A write to a word behind the first four leaves the key as it is. -/
theorem roundKey_zero_set {rk : Vector Word 44} {i : Nat} (v : Word) (h4 : 4 ≤ i) (hi : i < 44) :
    roundKey (rk.setIfInBounds i v) 0 = roundKey rk 0 := by
  have hword (j : Nat) (hj : j < 4) : rkWord (rk.setIfInBounds i v) j = rkWord rk j := by
    rw [rkWord_set _ _ _ _ hi, if_neg (by omega)]
  rw [roundKey, hword _ (by omega), hword _ (by omega), hword _ (by omega), hword _ (by omega)]
  rfl

/-- KS_WORD goes on with it (R147). -/
theorem State.Expands.ksWordWrite {s t : State} {key : Block} (h : s.Expands key t) (hp : t.phase = Phase.ks.code) :
    s.Expands key (t.ksWordWrite t.ki.toNat) := by
  obtain ⟨h4, h43⟩ := h.inv.indexInKs hp
  obtain ⟨-, hst, hrnd, -⟩ := t.ksWordWrite_frame t.ki.toNat
  refine ⟨h.inv.ksWordWrite hp, ?_, hst.trans h.st, hrnd.trans h.rnd⟩
  rw [State.ksWordWrite_rk, roundKey_zero_set _ h4 (by omega), h.key]

/-- Taking a line touches no register. -/
theorem State.Expands.taken {s t : State} {key : Block} (h : s.Expands key t) : s.Expands key t.taken :=
  ⟨h.inv.of_sameCore rfl, h.key, h.st, h.rnd⟩

/-- In KS a core step without reset is KS_WORD, whatever else is presented (R161, R171). -/
theorem step_of_ks {s : State} {w : StimulusWord} {rest : List HostLine} (hp : s.phase = Phase.ks.code)
    (hl : s.pending = .stimulus w :: rest) (hr : w.rst = false) : step s = exec .ksWord s.taken :=
  step_of_busy (State.presented_of_stimulus hl) hr hp rfl

/-- Under the invariants that step completes (R25, R147). -/
theorem step_ks_next {s : State} {w : StimulusWord} {rest : List HostLine} (hi : s.Inv) (hp : s.phase = Phase.ks.code)
    (hl : s.pending = .stimulus w :: rest) (hr : w.rst = false) : step s = .next (s.taken.ksWordWrite s.ki.toNat) := by
  obtain ⟨h4, h43⟩ := hi.indexInKs hp
  rw [step_of_ks hp hl hr]
  exact exec_ksWord_of_range (s := s.taken) h4 h43

/-- The lines left after a KS_WORD step. -/
theorem State.pending_ksWordWrite_taken {s : State} {w : StimulusWord} {rest : List HostLine} (i : Nat)
    (hl : s.pending = .stimulus w :: rest) : (s.taken.ksWordWrite i).pending = rest := by
  obtain ⟨-, -, -, -, ⟨-, hpending⟩, -⟩ := s.taken.ksWordWrite_frame i
  rw [hpending, State.taken_of_stimulus hl]
  rfl

section
variable {s : State} {w : StimulusWord} {ws : List StimulusWord} {rest : List HostLine}

/-- While lines without reset are left, one of them comes next. -/
theorem exists_nextLine {n : Nat} {lines : List HostLine} (hrst : ∀ v ∈ ws, v.rst = false) (hn : n < ws.length)
    (hl : lines = (ws.drop n).map HostLine.stimulus ++ rest) :
    ∃ v, v.rst = false ∧ lines = .stimulus v :: ((ws.drop (n + 1)).map HostLine.stimulus ++ rest) := by
  rw [List.drop_eq_getElem_cons hn] at hl
  exact ⟨ws[n], hrst _ (List.getElem_mem hn), hl⟩

/-- The accept step of an EXPAND_KEY of good length at rest (R146, R163). -/
theorem step_expandKey {lines : List HostLine} (ha : s.atRest = true) (hr : w.rst = false) (hc : w.cmd = 1#2)
    (hlen : w.keyLen = 16#8) (hl : s.pending = .stimulus w :: lines) :
    step s = .next (s.taken.ksLoad 16#8 w.keyIn) := by
  have hdecode : decodeStimulus w = .expandKey 16#8 w.keyIn := by simp [decodeStimulus, hr, hc, hlen]
  rw [step_of_atRest (State.presented_of_stimulus hl) hr ha, hdecode]
  exact exec_expandKey_of_atRest _ _ ha

/-- After the accepted EXPAND_KEY and `n < 40` further core steps without reset the machine is in KS, with word `4 + n`
to write next (R151). By induction on the steps made. -/
theorem run_keyExpansion (ha : s.atRest = true) (hr : w.rst = false) (hc : w.cmd = 1#2) (hlen : w.keyLen = 16#8)
    (hws : ws.length = 40) (hrst : ∀ v ∈ ws, v.rst = false)
    (hl : s.pending = (w :: ws).map HostLine.stimulus ++ rest) (n : Nat) (hn : n < 40) :
    ∃ u : State, Host.Core.run core (n + 1) s = .next u ∧ s.Expands w.keyIn u ∧ u.phase = Phase.ks.code ∧
      u.ki.toNat = 4 + n ∧ u.pending = (ws.drop n).map HostLine.stimulus ++ rest := by
  induction n with
  | zero =>
    obtain ⟨⟨hki, -, -, hks⟩, -, -, ⟨-, hpending⟩, -⟩ := s.taken.ksLoad_sixteen_frame w.keyIn
    refine ⟨_, (run_succ_of_next core rfl).trans (step_expandKey ha hr hc hlen hl), .ksLoad s w.keyIn, hks,
      congrArg BitVec.toNat hki, hpending.trans ?_⟩
    rw [State.taken_of_stimulus hl]
    rfl
  | succ n ih =>
    obtain ⟨u, hrun, hexp, hp, hki, hpending⟩ := ih (by omega)
    obtain ⟨v, hv, hline⟩ := exists_nextLine hrst (by omega) hpending
    have hstep := step_ks_next hexp.inv hp hline hv
    refine ⟨_, (run_succ_of_next core hrun).trans hstep, hexp.taken.ksWordWrite hp, ?_, ?_,
      State.pending_ksWordWrite_taken _ hline⟩
    · rw [State.ksWordWrite_phase, if_neg (by omega)]
      exact hp
    · have h43 : u.taken.ki.toNat ≤ 43 := hki.trans_le (by omega)
      exact (State.ksWordWrite_ki_toNat _ h43).trans (congrArg (· + 1) hki)

end

/-- Settles O55: the run so far, and from `KI` = 43 the KS_WORD that completes the schedule. -/
theorem keyExpansionStepwise : Obligations.KeyExpansionStepwise := by
  intro s w ws rest ha hr hc hlen hws hrst hl
  have hrun := run_keyExpansion ha hr hc hlen hws hrst hl
  refine ⟨fun n hn => ?_, ?_⟩
  · obtain ⟨u, hu, -, hp, hki, hpending⟩ := hrun n hn
    obtain ⟨v, hv, hline⟩ := exists_nextLine hrst (by omega) hpending
    exact ⟨u, hu, hp, hki, step_of_ks hp hline hv⟩
  · obtain ⟨u, hu, hexp, hp, hki, hpending⟩ := hrun 39 (by omega)
    obtain ⟨v, hv, hline⟩ := exists_nextLine hrst (by omega) hpending
    rw [List.drop_eq_nil_of_le hws.le] at hline
    have hstep := step_ks_next hexp.inv hp hline hv
    have hend := hexp.taken.ksWordWrite hp
    have hphase : (u.taken.ksWordWrite u.ki.toNat).phase = Phase.idle.code := by
      rw [State.ksWordWrite_phase, if_pos hki]
    have hvalid : (u.taken.ksWordWrite u.ki.toNat).keyValid = true := by
      rw [State.ksWordWrite_keyValid, if_pos hki]
    have hready := hend.inv.keyReady hvalid
    have hwords := hready.words.toList_eq_expandKey
    rw [hend.key] at hwords
    exact ⟨_, (run_succ_of_next core hu).trans hstep, hwords, hvalid, hphase, hready.err, hready.ki,
      State.pending_ksWordWrite_taken _ hline, hend.st, hend.rnd⟩

end Sys2Proof.Machine

/-! The top of the cipher, `44_cipher_top.md` (R160 to R175): what a command at rest leads to, the three steps of an
encryption, the table of R171 and the transitions of R169, what a step does not depend on, and the run of an
encryption from its command to its ciphertext. -/

namespace Sys2Proof.Machine

/-! ### The commands -/

/-- Settles O31: both operations answer the state itself. -/
theorem nopAndReservedChangeNothing : Obligations.NopAndReservedChangeNothing := fun _ => ⟨rfl, rfl⟩

/-- ENCRYPT_BLOCK at rest is its accept step (R164). -/
theorem exec_encryptBlock_of_atRest {s : State} (pt : Block) (ha : s.atRest = true) :
    exec (.encryptBlock pt) s = .next (s.encryptAccept pt) := State.acceptAtRest_of_atRest _ ha

theorem State.encryptAccept_of_valid {s : State} (pt : Block) (hv : s.keyValid = true) :
    s.encryptAccept pt = (s.setSt (loadState pt)).setPhase Phase.init.code := if_pos hv

theorem State.encryptAccept_of_invalid {s : State} (pt : Block) (hv : s.keyValid = false) :
    s.encryptAccept pt = s := if_neg (ne_true_of_eq_false hv)

/-- Settles O34: the accept step loads the plaintext column by column. -/
theorem encryptBlockLoadsThePlaintext : Obligations.EncryptBlockLoadsThePlaintext := by
  intro pt s hp hv
  have hexec := exec_encryptBlock_of_atRest pt ((State.atRest_iff s).2 hp)
  rw [State.encryptAccept_of_valid pt hv] at hexec
  exact ⟨_, hexec, fun _ _ => cell_loadState pt, rfl, rfl, rfl, rfl, rfl, rfl, ⟨rfl, rfl⟩, rfl⟩

/-- Settles O35: the accept step refuses without a valid key, and in a busy phase no command gets as far as that. -/
theorem unacceptedCommandsChangeNothing : Obligations.UnacceptedCommandsChangeNothing := by
  refine ⟨fun pt s hp hv => ?_, fun n key pt s hb =>
    ⟨State.acceptAtRest_of_busy (s.ksLoad n key) hb, State.acceptAtRest_of_busy (s.encryptAccept pt) hb⟩⟩
  rw [exec_encryptBlock_of_atRest pt ((State.atRest_iff s).2 hp), State.encryptAccept_of_invalid pt hv]

/-- The command that `cmd` selects (R72). -/
theorem decodeStimulus_of_cmd {w : StimulusWord} (hr : w.rst = false) :
    (w.cmd = 0#2 → decodeStimulus w = .nop) ∧ (w.cmd = 1#2 → decodeStimulus w = .expandKey w.keyLen w.keyIn) ∧
      (w.cmd = 2#2 → decodeStimulus w = .encryptBlock w.ptIn) ∧ (w.cmd = 3#2 → decodeStimulus w = .rsvd3) := by
  refine ⟨fun hc => ?_, fun hc => ?_, fun hc => ?_, fun hc => ?_⟩ <;> simp [decodeStimulus, hr, hc]

/-- Where the command presented in `w` leads from a state at rest (R161 to R164, R175). -/
def State.obey (s : State) (w : StimulusWord) : State :=
  if w.cmd = 1#2 then s.ksLoad w.keyLen w.keyIn
  else if w.cmd = 2#2 then s.encryptAccept w.ptIn
  else s

section
variable (s : State) {w : StimulusWord}

theorem State.obey_expandKey (hc : w.cmd = 1#2) : s.obey w = s.ksLoad w.keyLen w.keyIn := if_pos hc

theorem State.obey_encryptBlock (hc : w.cmd = 2#2) : s.obey w = s.encryptAccept w.ptIn := by
  simp [State.obey, hc]

/-- NOP and the reserved command (R162, R175). -/
theorem State.obey_idle (hc : w.cmd = 0#2 ∨ w.cmd = 3#2) : s.obey w = s := by
  rcases hc with hc | hc <;> simp [State.obey, hc]

end

/-- At rest every command completes, and `State.obey` is what it does. -/
theorem exec_command {s : State} {w : StimulusWord} (hr : w.rst = false) (ha : s.atRest = true) :
    exec (decodeStimulus w) s = .next (s.obey w) := by
  rcases decodeStimulus_cases hr with ⟨hc, hd⟩ | ⟨hc, hd⟩ | ⟨hc, hd⟩ | ⟨hc, hd⟩ <;> rw [hd]
  · rw [s.obey_idle (.inl hc)]
    rfl
  · rw [s.obey_expandKey hc, exec_expandKey_of_atRest _ _ ha]
  · rw [s.obey_encryptBlock hc, exec_encryptBlock_of_atRest _ ha]
  · rw [s.obey_idle (.inr hc)]
    rfl

/-- The core step of a state at rest, without reset (R171). -/
theorem step_command {s : State} {w : StimulusWord} (hw : s.presents w) (hr : w.rst = false) (ha : s.atRest = true) :
    step s = .next (s.taken.obey w) := by
  rw [step_of_atRest hw hr ha]
  exact exec_command (s := s.taken) hr ha

/-! ### The three steps of an encryption -/

/-- Reading a round key can do no more than advance the counter of free values. -/
theorem State.readRoundKey_snd_eq (s : State) (sel : BitVec 4) :
    (s.readRoundKey sel).2 = s.setDraws (s.readRoundKey sel).2.draws := by
  obtain ⟨n, h⟩ := s.readRoundKey_snd sel
  rw [h]
  rfl

/-- Only a read where `rk_out` is unspecified takes a free value (R29). -/
theorem State.readRoundKey_draws (s : State) (sel : BitVec 4) :
    (s.readRoundKey sel).2.draws = if s.rkOutSpecified sel then s.draws else s.draws + 1 := by
  rcases s.readRoundKey_cases sel with ⟨h, hread⟩ | ⟨h, hread⟩ <;> rw [h, hread] <;> rfl

/-- ENC_INIT in every state (R165). -/
theorem exec_encInit (s : State) : exec .encInit s = .next
    ((((s.setDraws (s.readRoundKey 0#4).2.draws).setSt
      (addRoundKey s.st (loadState (s.readRoundKey 0#4).1))).setRnd 1#4).setPhase Phase.round.code) := by
  rw [← State.readRoundKey_snd_eq]
  rfl

/-- ENC_ROUND in every state (R166): `PHASE` changes after round 9 only. -/
theorem exec_encRound (s : State) : exec .encRound s = .next
    ((((s.setDraws (s.readRoundKey s.rnd).2.draws).setSt (fullRound s.st (s.readRoundKey s.rnd).1)).setRnd
      (s.rnd + 1#4)).setPhase (if s.rnd = 9#4 then Phase.final.code else s.phase)) := by
  simp only [exec, execEncRound]
  rw [State.readRoundKey_snd_eq]
  by_cases hlast : s.rnd = 9#4
  · rw [if_pos hlast, if_pos hlast]
    rfl
  · rw [if_neg hlast, if_neg hlast]
    rfl

/-- ENC_FINAL in every state (R167). -/
theorem exec_encFinal (s : State) : exec .encFinal s = .next
    (((s.setDraws (s.readRoundKey 10#4).2.draws).setSt (finalRound s.st (s.readRoundKey 10#4).1)).setPhase
      Phase.done.code) := by
  rw [← State.readRoundKey_snd_eq]
  rfl

/-- Settles O43: the three operations as they are in every state, and the read where `rk_out` is specified. -/
theorem encryptionStepsCompleteAnywhere : Obligations.EncryptionStepsCompleteAnywhere := fun s =>
  ⟨fun _ hv hsel => congrArg Prod.fst (State.readRoundKey_of_valid hv hsel),
    ⟨_, exec_encInit s, rfl, rfl, rfl, rfl, rfl, rfl, rfl, ⟨rfl, rfl⟩, rfl⟩,
    ⟨_, exec_encRound s, rfl, rfl, rfl, rfl, rfl, rfl, rfl, ⟨rfl, rfl⟩, rfl⟩,
    ⟨_, exec_encFinal s, rfl, rfl, rfl, rfl, rfl, rfl, rfl, ⟨rfl, rfl⟩, rfl⟩⟩

section
variable {s : State} (hv : s.keyValid = true)
include hv

theorem exec_encInit_of_valid : exec .encInit s = .next
    (((s.setSt (addRoundKey s.st (loadState (roundKey s.rk 0)))).setRnd 1#4).setPhase Phase.round.code) := by
  rw [exec_encInit, State.readRoundKey_of_valid hv (by decide)]
  rfl

theorem exec_encRound_of_valid (h10 : s.rnd.toNat ≤ 10) : exec .encRound s = .next
    (((s.setSt (fullRound s.st (roundKey s.rk s.rnd.toNat))).setRnd (s.rnd + 1#4)).setPhase
      (if s.rnd = 9#4 then Phase.final.code else s.phase)) := by
  rw [exec_encRound, State.readRoundKey_of_valid hv h10]
  rfl

theorem exec_encFinal_of_valid : exec .encFinal s = .next
    ((s.setSt (finalRound s.st (roundKey s.rk 10))).setPhase Phase.done.code) := by
  rw [exec_encFinal, State.readRoundKey_of_valid hv (by decide)]
  rfl

end

/-- AddRoundKey with a round key, on the 128-bit values (R123). -/
theorem storeState_addRoundKey_loadState (m : StateMatrix) (k : Block) :
    storeState (addRoundKey m (loadState k)) = storeState m ^^^ k := by
  rw [← storeState_addRoundKey, loadState_storeState]

/-- Settles O40: the XOR of the matrices is that of the blocks. -/
theorem encInitWhitens : Obligations.EncInitWhitens := fun _ hv =>
  ⟨_, exec_encInit_of_valid hv, storeState_addRoundKey_loadState _ _, rfl, rfl, rfl, rfl, rfl, rfl, ⟨rfl, rfl⟩, rfl⟩

/-- Settles O41: a round ends in an AddRoundKey, and `RND` does not wrap below 10. -/
theorem encRoundIsOneRound : Obligations.EncRoundIsOneRound := by
  intro s hv _ h9
  have hnext : (s.rnd + 1#4).toNat = s.rnd.toNat + 1 := by bv_omega
  exact ⟨_, exec_encRound_of_valid hv (by omega), storeState_addRoundKey_loadState _ _, hnext, fun h => if_pos h,
    fun h => if_neg h, rfl, rfl, rfl, rfl, ⟨rfl, rfl⟩, rfl⟩

/-- Settles O42, as O40, without MixColumns. -/
theorem encFinalOmitsMixColumns : Obligations.EncFinalOmitsMixColumns := fun _ hv =>
  ⟨_, exec_encFinal_of_valid hv, storeState_addRoundKey_loadState _ _, rfl, rfl, rfl, rfl, rfl, rfl, ⟨rfl, rfl⟩, rfl⟩

/-! ### The table of R171 -/

/-- Settles O2: `rst` first, then the phase's micro-operation, then the command. -/
theorem stepIsTheTableOfR171 : Obligations.StepIsTheTableOfR171 := by
  intro s w hw
  refine ⟨step_of_rst hw, fun hr hp => step_of_busy hw hr hp rfl, fun hr hp => step_of_busy hw hr hp rfl,
    fun hr hp => step_of_busy hw hr hp rfl, fun hr hp => step_of_busy hw hr hp rfl, fun hr hp => ?_⟩
  rw [step_of_atRest hw hr ((State.atRest_iff s).2 hp)]
  obtain ⟨hnop, hexpand, hencrypt, hrsvd⟩ := decodeStimulus_of_cmd hr
  exact ⟨fun hc => by rw [hnop hc], fun hc => by rw [hexpand hc], fun hc => by rw [hencrypt hc],
    fun hc => by rw [hrsvd hc]⟩

/-- A phase without a micro-operation is a phase at rest (R74, R161). -/
theorem State.atRest_of_microOp_eq_none {s : State} {p : Phase} (hp : s.phase = p.code) (hm : p.microOp = none) :
    s.atRest = true := by
  have hbusy : p.busy = false := by simpa [hm] using Phase.busy_iff_microOp p
  rw [State.atRest_of_phase hp, hbusy]
  rfl

/-- A busy state is in a phase that has a micro-operation (R26, R74). -/
theorem State.exists_microOp_of_busy {s : State} (hb : s.busy = true) :
    ∃ p i, s.phase = Phase.code p ∧ p.microOp = some i := by
  rcases (State.busy_iff s).1 hb with hp | hp | hp | hp <;> exact ⟨_, _, hp, rfl⟩

/-- Under the invariants a micro-operation completes in its phase: KS_WORD finds its index in range (R25). -/
theorem State.Inv.microOp_completes {s : State} {p : Phase} {i : Instr} (h : s.Inv) (hp : s.phase = p.code)
    (hm : p.microOp = some i) : ∃ t, exec i s = .next t := by
  cases p with
  | idle | done => cases hm
  | ks =>
    cases hm
    obtain ⟨h4, h43⟩ := h.indexInKs hp
    exact ⟨_, exec_ksWord_of_range h4 h43⟩
  | init =>
    cases hm
    exact ⟨_, exec_encInit s⟩
  | round =>
    cases hm
    exact ⟨_, exec_encRound s⟩
  | final =>
    cases hm
    exact ⟨_, exec_encFinal s⟩

/-- Settles O46: the decoder finds an operation because `PHASE` is legal, and each of them completes. -/
theorem everyInvariantStateSteps : Obligations.EveryInvariantStateSteps := by
  intro s hs
  cases hpres : s.presented with
  | unit u =>
    rw [step_of_unit hpres]
    exact exec_unit_completes u s.taken
  | stimulus w =>
    rcases decodeTop_cases s.phase w with ⟨hr, -⟩ | ⟨hr, p, i, hp, hm, -⟩ | ⟨hr, ⟨p, hp, hm⟩, -⟩ | ⟨-, hnone, -⟩
    · exact ⟨_, step_of_rst hpres hr⟩
    · have htaken : s.taken.Inv := hs.of_sameCore rfl
      rw [step_of_busy hpres hr hp hm]
      exact htaken.microOp_completes hp hm
    · exact ⟨_, step_command hpres hr (State.atRest_of_microOp_eq_none hp hm)⟩
    · exact absurd hs.phaseLegal (by rw [hnone]; decide)

/-! ### The transitions of `PHASE` -/

/-- KS_LOAD begins the expansion, or falls back to IDLE (R146, R193). -/
theorem State.ksLoad_phase (s : State) (n : Byte) (key : Block) :
    (s.ksLoad n key).phase = if n = 16#8 then Phase.ks.code else Phase.idle.code := by
  rcases s.ksLoad_cases n key with ⟨hn, e⟩ | ⟨hn, e⟩ <;> rw [e]
  · rw [if_pos hn]
    rfl
  · rw [if_neg hn]
    rfl

/-- The rows of R169 for IDLE and DONE. -/
theorem State.obey_phase (s : State) (w : StimulusWord) :
    (w.cmd = 0#2 ∨ w.cmd = 3#2 → (s.obey w).phase = s.phase) ∧
      (w.cmd = 1#2 → w.keyLen = 16#8 → (s.obey w).phase = Phase.ks.code) ∧
      (w.cmd = 1#2 → w.keyLen ≠ 16#8 → (s.obey w).phase = Phase.idle.code) ∧
      (w.cmd = 2#2 → s.keyValid = true → (s.obey w).phase = Phase.init.code) ∧
      (w.cmd = 2#2 → s.keyValid = false → (s.obey w).phase = s.phase) := by
  refine ⟨fun hc => ?_, fun hc hn => ?_, fun hc hn => ?_, fun hc hv => ?_, fun hc hv => ?_⟩
  · rw [s.obey_idle hc]
  · rw [s.obey_expandKey hc, State.ksLoad_phase, if_pos hn]
  · rw [s.obey_expandKey hc, State.ksLoad_phase, if_neg hn]
  · rw [s.obey_encryptBlock hc, State.encryptAccept_of_valid _ hv]
    rfl
  · rw [s.obey_encryptBlock hc, State.encryptAccept_of_invalid _ hv]

/-- The rows of R169 for ROUND. -/
theorem exec_encRound_phase {s t : State} (h : exec .encRound s = .next t) :
    (s.rnd.toNat ≤ 8 → t.phase = s.phase) ∧ (s.rnd = 9#4 → t.phase = Phase.final.code) := by
  rcases (exec_encRound_control h).2.2 with ⟨hlast, hp⟩ | ⟨hmore, hp⟩
  · exact ⟨fun h8 => absurd h8 (by rw [hlast]; decide), fun _ => hp⟩
  · exact ⟨fun _ => hp, fun hlast => absurd hlast hmore⟩

/-- The rows of R169 for KS. -/
theorem exec_ksWord_phase {s t : State} (h : exec .ksWord s = .next t) :
    (s.ki.toNat ≤ 42 → t.phase = s.phase) ∧ (s.ki = 43#6 → t.phase = Phase.idle.code) := by
  obtain ⟨-, -, rfl⟩ := exec_ksWord_cases h
  rw [State.ksWordWrite_phase]
  exact ⟨fun h42 => if_neg (by omega), fun h43 => if_pos (congrArg BitVec.toNat h43)⟩

/-- Settles O47: the operation of the step by the table of R171, and what that operation does to `PHASE`. -/
theorem phaseTransitions : Obligations.PhaseTransitions := by
  intro s t w _ hw h
  refine ⟨fun hr => ?_, fun hr => ⟨fun hp => ?_, fun hp => ?_, fun hp => ?_, fun hp => ?_, fun hp => ?_⟩⟩
  · rw [step_of_rst hw hr] at h
    cases h
    rfl
  · rw [step_command hw hr ((State.atRest_iff s).2 hp)] at h
    cases h
    exact s.taken.obey_phase w
  · rw [step_of_busy hw hr hp rfl] at h
    obtain ⟨hstay, hend⟩ := exec_ksWord_phase h
    exact ⟨fun h42 => (hstay h42).trans hp, hend⟩
  · rw [step_of_busy hw hr hp rfl] at h
    exact (exec_encInit_control h).2.1
  · rw [step_of_busy hw hr hp rfl] at h
    obtain ⟨hstay, hend⟩ := exec_encRound_phase h
    exact ⟨fun h8 => (hstay h8).trans hp, hend⟩
  · rw [step_of_busy hw hr hp rfl] at h
    exact (exec_encFinal_control h).2.1

/-! ### What a step does not depend on -/

/-- Settles O48: both steps are the micro-operation of the phase, and no operation reads the lines to come. -/
theorem busyStepIgnoresInputs : Obligations.BusyStepIgnoresInputs := by
  intro s t v w l hb hv hvr hw hwr h
  obtain ⟨p, i, hp, hm⟩ := State.exists_microOp_of_busy hb
  rw [step_of_busy hv hvr hp hm] at h
  have hstep := step_of_busy hw hwr hp hm
  rw [State.taken_setPending] at hstep
  exact hstep.trans (exec_setPending _ h)

/-- RESET's free values are numbered by the counter alone (R210). -/
theorem State.control_reset (s : State) : s.loseData.resetControl.control =
    (Phase.idle.code, Config.freeBits 4 (s.draws + 45), Config.freeBits 6 (s.draws + 46), false, false,
      s.draws + 47) := rfl

theorem State.control_ksLoad (s : State) (n : Byte) (key : Block) : (s.ksLoad n key).control =
    if n = 16#8 then (Phase.ks.code, s.rnd, 4#6, false, false, s.draws)
    else (Phase.idle.code, s.rnd, s.ki, false, true, s.draws) := by
  rcases s.ksLoad_cases n key with ⟨hn, e⟩ | ⟨hn, e⟩ <;> rw [e]
  · simp [State.control, State.loadKeyWords, hn]
  · simp [State.control, State.raiseInvalidKeyLength, hn]

theorem State.control_encryptAccept (s : State) (pt : Block) : (s.encryptAccept pt).control =
    if s.keyValid then (Phase.init.code, s.rnd, s.ki, s.keyValid, s.err, s.draws) else s.control := by
  rcases s.encryptAccept_cases pt with ⟨hv, e⟩ | ⟨hv, e⟩ <;> rw [e]
  · rw [if_pos hv]
    rfl
  · rw [if_neg (ne_true_of_eq_false hv)]

theorem State.control_ksWordWrite (s : State) (i : Nat) : (s.ksWordWrite i).control =
    (if i = 43 then Phase.idle.code else s.phase, s.rnd, s.ki + 1#6, if i = 43 then true else s.keyValid, s.err,
      s.draws) := by
  obtain ⟨hki, -, hrnd, herr, -, hdraws⟩ := s.ksWordWrite_frame i
  rw [State.control, s.ksWordWrite_phase i, hrnd, hki, s.ksWordWrite_keyValid i, herr, hdraws]

theorem State.control_eq_iff {s s' : State} : s.control = s'.control ↔
    s.phase = s'.phase ∧ s.rnd = s'.rnd ∧ s.ki = s'.ki ∧ s.keyValid = s'.keyValid ∧ s.err = s'.err ∧
      s.draws = s'.draws := by
  simp only [State.control, Prod.mk.injEq]

section
variable {s s' : State} (hc : s.control = s'.control)
include hc

/-- The free value that a read of a round key may take depends on control only. -/
theorem State.readRoundKey_draws_congr (sel : BitVec 4) :
    (s.readRoundKey sel).2.draws = (s'.readRoundKey sel).2.draws := by
  obtain ⟨-, -, -, hvalid, -, hdraws⟩ := State.control_eq_iff.1 hc
  rw [State.readRoundKey_draws, State.readRoundKey_draws, State.rkOutSpecified, State.rkOutSpecified, hvalid, hdraws]

/-- A micro-operation decides control from control (R170). -/
theorem exec_microOp_control {t : State} {p : Phase} {i : Instr} (hm : p.microOp = some i)
    (h : exec i s = .next t) : ∃ t', exec i s' = .next t' ∧ t'.control = t.control := by
  have hread := State.readRoundKey_draws_congr hc
  obtain ⟨hphase, hrnd, hki, hvalid, herr, hdraws⟩ := State.control_eq_iff.1 hc
  cases p with
  | idle | done => cases hm
  | ks =>
    cases hm
    obtain ⟨h4, h43, rfl⟩ := exec_ksWord_cases h
    rw [hki] at h4 h43 ⊢
    refine ⟨_, exec_ksWord_of_range h4 h43, ?_⟩
    rw [State.control_ksWordWrite, State.control_ksWordWrite, hphase, hrnd, hki, hvalid, herr, hdraws]
  | init =>
    cases hm
    cases (exec_encInit s).symm.trans h
    exact ⟨_, exec_encInit s', by simp [State.control, hki, hvalid, herr, hread]⟩
  | round =>
    cases hm
    cases (exec_encRound s).symm.trans h
    exact ⟨_, exec_encRound s', by simp [State.control, hphase, hrnd, hki, hvalid, herr, hread]⟩
  | final =>
    cases hm
    cases (exec_encFinal s).symm.trans h
    exact ⟨_, exec_encFinal s', by simp [State.control, hrnd, hki, hvalid, herr, hread]⟩

/-- A command decides control from control and `ctl` (R170). -/
theorem State.control_obey_congr {w w' : StimulusWord} (hctl : w.ctl = w'.ctl) :
    (s.obey w).control = (s'.obey w').control := by
  have hcmd : w.cmd = w'.cmd := congrArg (BitVec.extractLsb' 8 2) hctl
  have hlen : w.keyLen = w'.keyLen := congrArg (BitVec.extractLsb' 0 8) hctl
  obtain ⟨-, hrnd, hki, hvalid, herr, hdraws⟩ := State.control_eq_iff.1 hc
  unfold State.obey
  rw [hcmd, hlen]
  split
  · rw [State.control_ksLoad, State.control_ksLoad, hrnd, hki, hdraws]
  · split
    · rw [State.control_encryptAccept, State.control_encryptAccept, hc, hrnd, hki, hvalid, herr, hdraws]
    · exact hc

end

/-- Settles O49, by the table of R171: `rst`, `PHASE` and `cmd` choose the same operation in both states. -/
theorem controlIgnoresData : Obligations.ControlIgnoresData := by
  intro s s' t w w' hc hw hw' hctl h
  have hrst : w'.rst = w.rst := congrArg (BitVec.getLsbD · 10) hctl.symm
  have htaken : s.taken.control = s'.taken.control := hc
  obtain ⟨hphase, -, -, -, -, hdraws⟩ := State.control_eq_iff.1 hc
  rcases decodeTop_cases s.phase w with ⟨hr, -⟩ | ⟨hr, p, i, hp, hm, -⟩ | ⟨hr, ⟨p, hp, hm⟩, -⟩ | ⟨-, -, hd⟩
  · cases (step_of_rst hw hr).symm.trans h
    refine ⟨_, step_of_rst hw' (hrst.trans hr), ?_⟩
    rw [State.control_reset, State.control_reset, State.taken_draws, State.taken_draws, hdraws]
  · rw [step_of_busy hw hr hp hm] at h
    rw [step_of_busy hw' (hrst.trans hr) (hphase.symm.trans hp) hm]
    exact exec_microOp_control htaken hm h
  · cases (step_command hw hr (State.atRest_of_microOp_eq_none hp hm)).symm.trans h
    exact ⟨_, step_command hw' (hrst.trans hr) (State.atRest_of_microOp_eq_none (hphase.symm.trans hp) hm),
      (State.control_obey_congr htaken hctl).symm⟩
  · have hstuck : decodePresented s.phase s.presented = .error (.unreachablePhase s.phase) := by
      rw [show s.presented = .stimulus w from hw]
      exact hd
    cases (step_of_undecodable hstuck).symm.trans h

/-! ### The ciphertext in DONE -/

/-- The outputs in DONE (R26, R27). -/
theorem State.outputs_of_done {t : State} (hp : t.phase = Phase.done.code) :
    t.done = true ∧ t.busy = false ∧ t.ctOut = some (storeState t.st) := by
  have hdone : t.done = true := decide_eq_true hp
  exact ⟨hdone, State.busy_of_phase hp, if_pos hdone⟩

/-- A command that is not accepted, as R168 lists them, leaves the state as it is. -/
theorem State.obey_unaccepted {s : State} {w : StimulusWord}
    (h : w.cmd = 0#2 ∨ w.cmd = 3#2 ∨ (w.cmd = 2#2 ∧ s.keyValid = false)) : s.obey w = s := by
  rcases h with hc | hc | ⟨hc, hv⟩
  · exact s.obey_idle (.inl hc)
  · exact s.obey_idle (.inr hc)
  · rw [s.obey_encryptBlock hc, State.encryptAccept_of_invalid _ hv]

/-- Settles O53: neither a unit operation nor such a command touches `ST` or `PHASE`. -/
theorem ciphertextIsHeldInDone : Obligations.CiphertextIsHeldInDone := by
  intro s t hp h hcmd
  have hkept : t.st = s.st ∧ t.phase = s.phase := by
    cases hpres : s.presented with
    | unit u =>
      rw [step_of_unit hpres] at h
      obtain ⟨ports, n, rfl⟩ := exec_unit_cases h
      exact ⟨rfl, rfl⟩
    | stimulus w =>
      obtain ⟨hr, hc⟩ := hcmd w hpres
      rw [step_command hpres hr ((State.atRest_iff s).2 (.inr hp)), State.obey_unaccepted (s := s.taken) hc] at h
      cases h
      exact ⟨rfl, rfl⟩
  obtain ⟨hst, hphase⟩ := hkept
  obtain ⟨hdone, hbusy, hct⟩ := State.outputs_of_done (hphase.trans hp)
  exact ⟨hst, hphase.trans hp, hdone, hbusy, hst ▸ hct⟩

/-! ### An encryption step by step -/

/-- A step leaves the lines as taking one leaves them: no operation writes them. -/
theorem step_pending {s t : State} (h : step s = .next t) : t.pending = s.taken.pending := by
  have hsame : step s = .next (t.setPending s.taken.pending) := step_of_same_inputs (s' := s) rfl rfl rfl h
  rw [h] at hsame
  have ht : t = t.setPending s.taken.pending := Host.Outcome.next.inj hsame
  exact (congrArg State.pending ht).trans (t.setPending_pending _)

theorem step_pending_of_stimulus {s t : State} {w : StimulusWord} {rest : List HostLine} (h : step s = .next t)
    (hl : s.pending = .stimulus w :: rest) : t.pending = rest := by
  rw [step_pending h, State.taken_of_stimulus hl]
  rfl

theorem run_one_of_step {s t : State} (h : step s = .next t) : Host.Core.run core 1 s = .next t :=
  (run_succ_of_next core rfl).trans h

/-- What an encryption of `pt`, begun in `s`, promises after ENC_INIT and `n` rounds (R165, R166): the key registers as
they were, the next round's number, and the rounds still to come lead to what all nine lead to. -/
structure State.Encrypts (s : State) (pt : Block) (n : Nat) (t : State) : Prop where
  key : s.SameKey t
  phase : t.phase = if n = 9 then Phase.final.code else Phase.round.code
  rnd : t.rnd.toNat = n + 1
  rounds : roundLoop s.rk (9 - n) (n + 1) t.st =
    roundLoop s.rk 9 1 (addRoundKey (loadState pt) (loadState (roundKey s.rk 0)))

section
variable {s t : State} {pt : Block} {n : Nat}

/-- Taking a line touches no register. -/
theorem State.Encrypts.taken (h : s.Encrypts pt n t) : s.Encrypts pt n t.taken :=
  ⟨⟨h.key.rk, h.key.ki, h.key.keyValid, h.key.err⟩, h.phase, h.rnd, h.rounds⟩

/-- ENC_INIT on a loaded plaintext begins the rounds (R165). -/
theorem exec_encInit_encrypts (hkey : s.SameKey t) (hv : s.keyValid = true) (hst : t.st = loadState pt) :
    ∃ u, exec .encInit t = .next u ∧ s.Encrypts pt 0 u := by
  refine ⟨_, exec_encInit_of_valid (hkey.keyValid.trans hv), ((hkey.setSt _).setRnd _).setPhase _, rfl, rfl, ?_⟩
  rw [← hkey.rk, ← hst]
  rfl

/-- ENC_ROUND goes on with them (R166). -/
theorem State.Encrypts.encRound (h : s.Encrypts pt n t) (hv : s.keyValid = true) (hn : n < 9) :
    ∃ u, exec .encRound t = .next u ∧ s.Encrypts pt (n + 1) u := by
  have hrnd := h.rnd
  have hlast : t.rnd = 9#4 ↔ n + 1 = 9 := by rw [← hrnd]; exact BitVec.toNat_inj.symm
  have hrounds := h.rounds
  rw [show 9 - n = 9 - (n + 1) + 1 by omega, roundLoop, ← hrnd, ← h.key.rk] at hrounds
  refine ⟨_, exec_encRound_of_valid (h.key.keyValid.trans hv) (by omega),
    ((h.key.setSt _).setRnd _).setPhase _, ?_, ?_, ?_⟩
  · simp only [State.setPhase_phase, hlast, h.phase, if_neg hn.ne]
  · rw [State.setPhase_rnd, State.setRnd_rnd]
    bv_omega
  · rw [← hrnd, ← h.key.rk]
    exact hrounds

/-- ENC_FINAL after the ninth round shows the ciphertext (R160, R167). -/
theorem State.Encrypts.encFinal (h : s.Encrypts pt 9 t) (hv : s.keyValid = true) :
    ∃ u, exec .encFinal t = .next u ∧ s.SameKey u ∧ u.phase = Phase.done.code ∧
      u.ctOut = some (Sys2Proof.Machine.encryptBlock s.rk pt) := by
  have hst : t.st = roundLoop s.rk 9 1 (addRoundKey (loadState pt) (loadState (roundKey s.rk 0))) := h.rounds
  refine ⟨_, exec_encFinal_of_valid (h.key.keyValid.trans hv), (h.key.setSt _).setPhase _, rfl, ?_⟩
  rw [(State.outputs_of_done rfl).2.2, encryptBlock, ← hst, ← h.key.rk]
  rfl

/-- While rounds are to come the encryption is not done. -/
theorem State.Encrypts.done_eq_false (h : s.Encrypts pt n t) : t.done = false := by
  rw [State.done, h.phase]
  split <;> rfl

end

section
variable {s : State} {w : StimulusWord} {ws : List StimulusWord} {rest : List HostLine}

/-- The accept step of an ENCRYPT_BLOCK at rest with a valid key (R164). -/
theorem step_encryptBlock {lines : List HostLine} (ha : s.atRest = true) (hv : s.keyValid = true)
    (hr : w.rst = false) (hc : w.cmd = 2#2) (hl : s.pending = .stimulus w :: lines) :
    step s = .next ((s.taken.setSt (loadState w.ptIn)).setPhase Phase.init.code) := by
  rw [step_command (State.presented_of_stimulus hl) hr ha, State.obey_encryptBlock _ hc,
    State.encryptAccept_of_valid (s := s.taken) _ hv]

/-- After the accepted ENCRYPT_BLOCK, ENC_INIT and `n ≤ 9` further core steps without reset, `n` rounds are done
(R172). By induction on the rounds. -/
theorem run_encryption (ha : s.atRest = true) (hv : s.keyValid = true) (hr : w.rst = false) (hc : w.cmd = 2#2)
    (hws : ws.length = 11) (hrst : ∀ v ∈ ws, v.rst = false)
    (hl : s.pending = (w :: ws).map HostLine.stimulus ++ rest) (n : Nat) (hn : n ≤ 9) :
    ∃ u : State, Host.Core.run core (n + 2) s = .next u ∧ s.Encrypts w.ptIn n u ∧
      u.pending = (ws.drop (n + 1)).map HostLine.stimulus ++ rest := by
  induction n with
  | zero =>
    have haccept := step_encryptBlock ha hv hr hc hl
    obtain ⟨v, hvr, hline⟩ := exists_nextLine (n := 0) hrst (by omega) (step_pending_of_stimulus haccept hl)
    have hkey : s.SameKey ((s.taken.setSt (loadState w.ptIn)).setPhase Phase.init.code).taken :=
      ⟨rfl, rfl, rfl, rfl⟩
    obtain ⟨u, hexec, henc⟩ := exec_encInit_encrypts hkey hv rfl
    have hstep := (step_of_busy (p := .init) (State.presented_of_stimulus hline) hvr rfl rfl).trans hexec
    exact ⟨u, (run_succ_of_next core (run_one_of_step haccept)).trans hstep, henc, step_pending_of_stimulus hstep hline⟩
  | succ n ih =>
    obtain ⟨t, hrun, henc, hpending⟩ := ih (by omega)
    obtain ⟨v, hvr, hline⟩ := exists_nextLine hrst (by omega) hpending
    obtain ⟨u, hexec, hnext⟩ := henc.taken.encRound hv hn
    have hphase : t.phase = Phase.round.code := henc.phase.trans (if_neg (by omega))
    have hstep := (step_of_busy (State.presented_of_stimulus hline) hvr hphase rfl).trans hexec
    exact ⟨u, (run_succ_of_next core hrun).trans hstep, hnext, step_pending_of_stimulus hstep hline⟩

end

/-- Settles O56: the run so far, and after the ninth round the ENC_FINAL that shows the ciphertext. -/
theorem encryptionStepwise : Obligations.EncryptionStepwise := by
  intro s w ws rest ha hv hr hc hws hrst hl
  have hrun := run_encryption ha hv hr hc hws hrst hl
  refine ⟨⟨_, run_one_of_step (step_encryptBlock ha hv hr hc hl), rfl⟩, fun n hn => ?_, ?_, ?_⟩
  · obtain ⟨u, hu, henc, -⟩ := hrun n hn.le
    exact ⟨u, hu, henc.phase.trans (if_neg hn.ne), henc.rnd, henc.key.rk⟩
  · obtain ⟨u, hu, henc, -⟩ := hrun 9 le_rfl
    exact ⟨u, hu, henc.phase⟩
  · obtain ⟨u, hu, henc, hpending⟩ := hrun 9 le_rfl
    obtain ⟨v, hvr, hline⟩ := exists_nextLine hrst (by omega) hpending
    rw [List.drop_eq_nil_of_le hws.le] at hline
    obtain ⟨t, hexec, hkey, hdone, hct⟩ := henc.taken.encFinal hv
    have hphase : u.phase = Phase.final.code := henc.phase
    have hstep := (step_of_busy (State.presented_of_stimulus hline) hvr hphase rfl).trans hexec
    exact ⟨t, (run_succ_of_next core hu).trans hstep, hdone, hct, hkey.rk, hkey.keyValid.trans hv, hkey.err,
      step_pending_of_stimulus hstep hline⟩

/-! ### ENCRYPT1 -/

/-- A run goes on from where its first step led. -/
theorem run_succ_of_step (M : Host.Core) (n : Nat) {s u : M.State} (h : M.step s = .next u) :
    M.run (n + 1) s = M.run n u := by
  rw [Host.Core.run, h]

/-- A run that reaches a next state began with a step that has one. -/
theorem exists_step_of_run (M : Host.Core) {n : Nat} {s t : M.State} (h : M.run (n + 1) s = .next t) :
    ∃ u, M.step s = .next u ∧ M.run n u = .next t := by
  rw [Host.Core.run] at h
  cases hs : M.step s with
  | next u =>
    rw [hs] at h
    exact ⟨u, rfl, h⟩
  | fault | refused =>
    rw [hs] at h
    cases h

/-- A run goes on from where its first part led. -/
theorem run_add_of_next (M : Host.Core) {m : Nat} (n : Nat) {s u : M.State} (h : M.run m s = .next u) :
    M.run (m + n) s = M.run n u := by
  induction m generalizing s with
  | zero =>
    cases h
    rw [Nat.zero_add]
  | succ m ih =>
    obtain ⟨t, hstep, hrun⟩ := exists_step_of_run M h
    rw [Nat.succ_add, run_succ_of_step M _ hstep]
    exact ih hrun

/-- While it waits, a WAIT line acts as idle lines do, one for each step (R80). -/
theorem run_wait {c : WaitFor} {s t : State} {rest lines : List HostLine} (n : Nat)
    (hl : s.pending = (List.replicate n StimulusWord.idle).map HostLine.stimulus ++ rest)
    (hwait : ∀ k, k < n → ∀ u : State, Host.Core.run core k s = .next u → c.waiting u = true)
    (h : Host.Core.run core n s = .next t) :
    Host.Core.run core n (s.setPending (.wait c :: lines)) = .next (t.setPending (.wait c :: lines)) := by
  induction n generalizing s with
  | zero =>
    cases h
    rfl
  | succ n ih =>
    obtain ⟨u, hu, hrun⟩ := exists_step_of_run core h
    have hfetch : fetchLine (s.setPending (.wait c :: lines)) (.wait c :: lines) =
        (.stimulus StimulusWord.idle, .wait c :: lines) :=
      fetchLine_wait_of_waiting lines ((c.waiting_setPending s _).trans (hwait 0 n.succ_pos s rfl))
    have hpres : (s.setPending (.wait c :: lines)).presented = s.presented :=
      (congrArg Prod.fst hfetch).trans (State.presented_of_stimulus hl).symm
    have hstep := step_of_same_inputs (s := s) (s' := s.setPending (.wait c :: lines)) rfl rfl hpres hu
    rw [show (s.setPending (.wait c :: lines)).taken.pending = .wait c :: lines from congrArg Prod.snd hfetch] at hstep
    rw [run_succ_of_step core n hstep]
    exact ih (step_pending_of_stimulus hu hl)
      (fun k hk v hv => hwait (k + 1) (Nat.succ_lt_succ hk) v ((run_succ_of_step core k hu).trans hv)) hrun

/-- The state with the line `w` and `n` idle lines to come. -/
def State.withCommand (s : State) (w : StimulusWord) (n : Nat) : State :=
  s.setPending ((w :: List.replicate n StimulusWord.idle).map HostLine.stimulus ++ [])

theorem rst_of_mem_replicate_idle {n : Nat} : ∀ v ∈ List.replicate n StimulusWord.idle, v.rst = false := by
  intro v hv
  rw [List.eq_of_mem_replicate hv]
  rfl

/-- A command line and the WAIT behind it act as the command and idle lines do, as long as the WAIT waits (R80). -/
theorem run_command_wait {s t : State} {w : StimulusWord} {c : WaitFor} {lines : List HostLine} (n : Nat)
    (hl : s.pending = .stimulus w :: .wait c :: lines)
    (hwait : ∀ k, k < n → ∀ u : State, Host.Core.run core (k + 1) (s.withCommand w n) = .next u → c.waiting u = true)
    (h : Host.Core.run core (n + 1) (s.withCommand w n) = .next t) :
    Host.Core.run core (n + 1) s = .next (t.setPending (.wait c :: lines)) := by
  obtain ⟨u, hu, hrun⟩ := exists_step_of_run core h
  have hline : (s.withCommand w n).pending = .stimulus w ::
      ((List.replicate n StimulusWord.idle).map HostLine.stimulus ++ []) := rfl
  have hpres := (State.presented_of_stimulus hl).trans (State.presented_of_stimulus hline).symm
  have hstep := step_of_same_inputs (s := s.withCommand w n) (s' := s) rfl rfl hpres hu
  rw [State.taken_of_stimulus hl] at hstep
  rw [run_succ_of_step core n hstep]
  exact run_wait n (step_pending_of_stimulus hu hline)
    (fun k hk v hv => hwait k hk v ((run_succ_of_step core k hu).trans hv)) hrun

theorem scheduleOfList_toList (rk : Vector Word 44) : scheduleOfList rk.toList = rk := by
  refine Vector.ext fun i _ => ?_
  simp [scheduleOfList]

section
variable {s : State} {w : StimulusWord} {lines : List HostLine} (ha : s.atRest = true) (hr : w.rst = false)
include ha hr

/-- EXPAND_KEY and the WAIT for its end: 41 steps, and the schedule is the key's (R151, R80). -/
theorem run_expandKey_wait (hc : w.cmd = 1#2) (hlen : w.keyLen = 16#8)
    (hl : s.pending = .stimulus w :: .wait .keyValid :: lines) :
    ∃ t : State, Host.Core.run core 41 s = .next t ∧ t.rk = scheduleOfList (expandKey w.keyIn) ∧
      t.keyValid = true ∧ t.phase = Phase.idle.code ∧ t.pending = .wait .keyValid :: lines := by
  obtain ⟨-, t, hrun, hwords, hvalid, hphase, -⟩ := keyExpansionStepwise (s.withCommand w 40) w _ [] ha hr hc hlen
    List.length_replicate rst_of_mem_replicate_idle rfl
  have hwait (k : Nat) (hk : k < 40) (u : State)
      (hu : Host.Core.run core (k + 1) (s.withCommand w 40) = .next u) : WaitFor.keyValid.waiting u = true := by
    obtain ⟨v, hv, hexp, hks, -⟩ := run_keyExpansion (s := s.withCommand w 40) (rest := []) ha hr hc hlen
      List.length_replicate rst_of_mem_replicate_idle rfl k hk
    cases hv.symm.trans hu
    obtain ⟨hinvalid, herr⟩ := hexp.inv.flagsInKs hks
    rw [WaitFor.waiting, hinvalid, herr]
    rfl
  have hrk : t.rk = scheduleOfList (expandKey w.keyIn) := by rw [← hwords, scheduleOfList_toList]
  exact ⟨_, run_command_wait 40 hl hwait hrun, hrk, hvalid, hphase, rfl⟩

/-- ENCRYPT_BLOCK and the WAIT for its end: 12 steps, and the ciphertext is out (R172, R80). -/
theorem run_encryptBlock_wait (hv : s.keyValid = true) (hc : w.cmd = 2#2)
    (hl : s.pending = .stimulus w :: .wait .done :: lines) :
    ∃ t : State, Host.Core.run core 12 s = .next t ∧ t.phase = Phase.done.code ∧
      t.ctOut = some (Sys2Proof.Machine.encryptBlock s.rk w.ptIn) := by
  obtain ⟨⟨i, hi, hinit⟩, -, -, t, hrun, hphase, hct, -⟩ := encryptionStepwise (s.withCommand w 11) w _ [] ha hv hr hc
    List.length_replicate rst_of_mem_replicate_idle rfl
  have hwait (k : Nat) (hk : k < 11) (u : State)
      (hu : Host.Core.run core (k + 1) (s.withCommand w 11) = .next u) : WaitFor.done.waiting u = true := by
    have hdone : u.done = false := by
      cases k with
      | zero =>
        cases hi.symm.trans hu
        exact decide_eq_false (by rw [hinit]; decide)
      | succ n =>
        obtain ⟨v, hrounds, henc, -⟩ := run_encryption (s := s.withCommand w 11) (rest := []) ha hv hr hc
          List.length_replicate rst_of_mem_replicate_idle rfl n (by omega)
        cases hrounds.symm.trans hu
        exact henc.done_eq_false
    rw [WaitFor.waiting, hdone]
    rfl
  exact ⟨_, run_command_wait 11 hl hwait hrun, hphase, hct⟩

end

/-- A step is decided by `PHASE`, what is presented, and the state with the line taken. -/
theorem step_congr {s s' : State} (hphase : s.phase = s'.phase) (hpres : s.presented = s'.presented)
    (htaken : s.taken = s'.taken) : step s = step s' := by
  rw [step, step, hphase, hpres, htaken]

/-- A WAIT that waits no more takes no step: a run goes on as without it (R80). -/
theorem run_passed {s t : State} {c : WaitFor} {rest : List HostLine} (n : Nat) (hl : s.pending = .wait c :: rest)
    (hc : c.waiting s = false) (h : Host.Core.run core (n + 1) (s.setPending rest) = .next t) :
    Host.Core.run core (n + 1) s = .next t := by
  obtain ⟨u, hu, hrun⟩ := exists_step_of_run core h
  obtain ⟨hpres, htaken⟩ := State.fetch_of_passed hl hc
  have hstep := (step_congr (s := s) (s' := s.setPending rest) rfl hpres htaken).trans hu
  exact (run_succ_of_step core n hstep).trans hrun

/-- Settles O57: the key expansion, and the encryption after the WAIT that is passed over. -/
theorem encrypt1EndsWithTheCiphertext : Obligations.Encrypt1EndsWithTheCiphertext := by
  intro s key pt rest ha hl
  obtain ⟨t, hrun, hrk, hvalid, hidle, hpending⟩ := run_expandKey_wait ha (StimulusWord.ofFields_rst ..)
    (StimulusWord.ofFields_cmd ..) (StimulusWord.ofFields_keyLen ..) hl
  have hpassed : WaitFor.keyValid.waiting t = false := by rw [WaitFor.waiting, hvalid]; rfl
  obtain ⟨u, hencrypt, hdone, hct⟩ := run_encryptBlock_wait
    (s := t.setPending (.stimulus (.ofFields false 2#2 0#8 0#128 pt) :: .wait .done :: rest))
    ((State.atRest_iff t).2 (.inl hidle)) (StimulusWord.ofFields_rst ..) hvalid (StimulusWord.ofFields_cmd ..) rfl
  refine ⟨u, (run_add_of_next core 12 hrun).trans (run_passed 11 hpending hpassed hencrypt), hdone, ?_⟩
  rw [hct, State.setPending_rk, hrk]
  rfl

end Sys2Proof.Machine

/-! The one exception of `60_exceptions.md` (R190 to R195): `InvalidKeyLength` is taken by an EXPAND_KEY of a bad
length at rest, a good one or RESET clears it, and nothing else touches `ERR`. -/

namespace Sys2Proof.Machine

/-! ### Taking the exception -/

/-- KS_LOAD with a key of any other length (R146, bad branch). -/
theorem State.ksLoad_of_ne (s : State) {n : Byte} (key : Block) (hn : n ≠ 16#8) :
    s.ksLoad n key = s.raiseInvalidKeyLength := if_neg fun hok => hn ((keyLengthOk_iff n).1 hok)

/-- Settles O33: KS_LOAD takes the exception, and without a key no block is accepted in the state it leads to. -/
theorem invalidKeyLengthIsTaken : Obligations.InvalidKeyLengthIsTaken := by
  intro n key s hn hp
  have hexec := exec_expandKey_of_atRest n key ((State.atRest_iff s).2 hp)
  rw [s.ksLoad_of_ne key hn] at hexec
  obtain ⟨herr, hvalid, hidle, hrk, hki, hst, hrnd, hunit, hpending, hdraws⟩ := s.raiseInvalidKeyLength_spec
  exact ⟨_, hexec, herr, if_pos herr, hvalid, hidle, State.busy_of_phase hidle,
    decide_eq_false (by rw [hidle]; decide), hrk, hki, hst, hrnd, ⟨hunit, hpending⟩, hdraws,
    fun pt => unacceptedCommandsChangeNothing.1 pt _ (.inl hidle) hvalid⟩

/-! ### The priority of RESET -/

/-- Settles O37: with `rst` the step is RESET, whatever the phase and the command, and taking the line has let the
module outputs go. -/
theorem resetHasPriority : Obligations.ResetHasPriority := by
  intro s w hw hr
  obtain ⟨hphase, hvalid, herr, -, -, -, -, hunit, -⟩ := s.taken.loseData.resetControl_spec
  obtain ⟨-, -, -, hkept, -⟩ := s.taken.loseData_frame
  exact ⟨_, step_of_rst hw hr, hphase, hvalid, herr, (hunit.trans hkept).trans s.taken_unit⟩

/-! ### The changes of `ERR` -/

/-- KS_LOAD sets `ERR` for a bad length and clears it for a good one (R146, R190). -/
theorem State.ksLoad_err (s : State) (n : Byte) (key : Block) : (s.ksLoad n key).err = true ↔ n ≠ 16#8 := by
  by_cases hn : n = 16#8
  · subst hn
    obtain ⟨⟨-, -, herr, -⟩, -⟩ := s.ksLoad_sixteen_frame key
    simp [herr]
  · rw [s.ksLoad_of_ne key hn]
    exact iff_of_true s.raiseInvalidKeyLength_spec.1 hn

/-- What an EXPAND_KEY presented at rest does to `ERR`: `rst` overrules it (R194), else its length decides. -/
theorem step_expandKey_err {s t : State} {w : StimulusWord} (hw : s.presents w) (ha : s.atRest = true)
    (hc : w.cmd = 1#2) (h : step s = .next t) :
    (w.rst = true ∧ t.err = false) ∨
      (s.atRest = true ∧ w.cmd = 1#2 ∧ w.rst = false ∧ (t.err = true ↔ w.keyLen ≠ 16#8)) := by
  cases hr : w.rst
  case true =>
    cases (step_of_rst hw hr).symm.trans h
    exact .inl ⟨rfl, rfl⟩
  case false =>
    cases (step_command hw hr ha).symm.trans h
    rw [s.taken.obey_expandKey hc]
    exact .inr ⟨ha, hc, rfl, s.taken.ksLoad_err w.keyLen w.keyIn⟩

/-- All that a step can do to `ERR`: nothing; clear it by RESET; set or clear it by an EXPAND_KEY at rest. -/
theorem step_err_cases {s t : State} (h : step s = .next t) :
    t.err = s.err ∨ ∃ w, s.presents w ∧
      ((w.rst = true ∧ t.err = false) ∨
       (s.atRest = true ∧ w.cmd = 1#2 ∧ w.rst = false ∧ (t.err = true ↔ w.keyLen ≠ 16#8))) := by
  rcases step_key_cases h with hs | ⟨w, hw, ⟨hr, rfl⟩ | ⟨-, -, rfl⟩ | ⟨ha, hc, -⟩ | ⟨ha, hc, -⟩⟩
  · exact .inl hs.err
  · exact .inr ⟨w, hw, .inl ⟨hr, rfl⟩⟩
  · obtain ⟨-, -, -, herr, -⟩ := s.taken.ksWordWrite_frame s.ki.toNat
    exact .inl herr
  · exact .inr ⟨w, hw, step_expandKey_err hw ha hc h⟩
  · exact .inr ⟨w, hw, step_expandKey_err hw ha hc h⟩

/-- Settles O50, by the cases of a step that touches `ERR`. -/
theorem errChangesOnlyByExpandKeyOrReset : Obligations.ErrChangesOnlyByExpandKeyOrReset := by
  intro s t h
  rcases step_err_cases h with hsame | ⟨w, hw, ⟨hr, hclear⟩ | ⟨ha, hc, hr, hlen⟩⟩
  · rw [hsame]
    exact ⟨fun h0 h1 => absurd (h0.symm.trans h1) Bool.false_ne_true,
      fun h1 h0 => absurd (h0.symm.trans h1) Bool.false_ne_true⟩
  · exact ⟨fun _ h1 => absurd (hclear.symm.trans h1) Bool.false_ne_true, fun _ _ => ⟨w, hw, .inl hr⟩⟩
  · refine ⟨fun _ h1 => ⟨w, hw, hr, ha, hc, hlen.1 h1⟩, fun _ h0 => ⟨w, hw, .inr ⟨ha, hc, ?_⟩⟩⟩
    by_contra hbad
    exact Bool.false_ne_true (h0.symm.trans (hlen.2 hbad))

end Sys2Proof.Machine

/-! RESET and the end of a busy phase, `70_reset_and_hazards.md` (R210 to R222): what RESET leaves behind, when `ct_out`
has a value, and the steps that a busy phase still takes: each core step without reset uses up one of them. -/

namespace Sys2Proof.Machine

/-! ### RESET -/

/-- Settles O36: RESET loses the data registers and assigns the control registers; the status outputs follow from the
phase IDLE. -/
theorem resetClearsControl : Obligations.ResetClearsControl := by
  intro s
  obtain ⟨hphase, hvalid, herr, -, -, -, -, hunit, hpending, -⟩ := s.loseData.resetControl_spec
  obtain ⟨-, -, -, hunit', hpending'⟩ := s.loseData_frame
  exact ⟨_, rfl, hphase, hvalid, herr, State.busy_of_phase hphase, decide_eq_false (by rw [hphase]; decide),
    hunit.trans hunit', hpending.trans hpending'⟩

/-! ### The ciphertext output -/

/-- Settles O60: in DONE by the outputs of that phase, elsewhere because the port's guard is `done`. -/
theorem ctOutOnlyWhileDone : Obligations.CtOutOnlyWhileDone := fun _ =>
  ⟨fun hdone => (State.outputs_of_done (of_decide_eq_true hdone)).2.2, fun hdone => if_neg (ne_true_of_eq_false hdone)⟩

/-! ### The steps that a busy phase still takes -/

section
variable {s : State}

theorem State.remaining_of_ks (hp : s.phase = Phase.ks.code) : s.remaining = 44 - s.ki.toNat := by
  simp [State.remaining, hp]

theorem State.remaining_of_init (hp : s.phase = Phase.init.code) : s.remaining = 11 := by
  simp [State.remaining, hp]

theorem State.remaining_of_round (hp : s.phase = Phase.round.code) : s.remaining = 11 - s.rnd.toNat := by
  simp [State.remaining, hp]

theorem State.remaining_of_final (hp : s.phase = Phase.final.code) : s.remaining = 1 := by
  simp [State.remaining, hp]

theorem State.remaining_of_atRest (ha : s.atRest = true) : s.remaining = 0 := by
  rcases (State.atRest_iff s).1 ha with hp | hp <;> simp [State.remaining, hp]

/-- The measure reads `PHASE`, `KI` and `RND` only. -/
theorem State.remaining_congr {t : State} (hphase : t.phase = s.phase) (hki : t.ki = s.ki) (hrnd : t.rnd = s.rnd) :
    t.remaining = s.remaining := by
  rw [State.remaining, State.remaining, hphase, hki, hrnd]

/-- A legal phase that is not busy is at rest (R23, R26, R161). -/
theorem State.Inv.atRest_of_not_busy (h : s.Inv) (hb : s.busy = false) : s.atRest = true := by
  obtain ⟨p, hp⟩ := Option.isSome_iff_exists.1 h.phaseLegal
  have hphase := Phase.code_of_ofCode hp
  rw [State.atRest_of_phase hphase, ← State.busy_of_phase hphase, hb]
  rfl

/-- A busy phase has at least one step to take, and at most 40 (R222): the ranges of `KI` and `RND` say so. -/
theorem State.Inv.remaining_of_busy (h : s.Inv) (hb : s.busy = true) : 1 ≤ s.remaining ∧ s.remaining ≤ 40 := by
  rcases (State.busy_iff s).1 hb with hp | hp | hp | hp
  · obtain ⟨h4, h43⟩ := h.indexInKs hp
    rw [State.remaining_of_ks hp]
    omega
  · rw [State.remaining_of_init hp]
    decide
  · obtain ⟨h1, h9⟩ := h.roundInRound hp
    rw [State.remaining_of_round hp]
    omega
  · rw [State.remaining_of_final hp]
    decide

/-- Under the invariants the measure is 0 exactly when nothing is under way. -/
theorem State.Inv.busy_eq_false_iff (h : s.Inv) : s.busy = false ↔ s.remaining = 0 := by
  refine ⟨fun hb => State.remaining_of_atRest (h.atRest_of_not_busy hb), fun hzero => ?_⟩
  by_contra hb
  obtain ⟨hpos, -⟩ := h.remaining_of_busy (Bool.eq_true_of_not_eq_false hb)
  omega

/-! ### Each micro-operation uses up one of them -/

variable {t : State}

/-- KS_WORD: `KI` advances, and the word 43 is the last (R147). -/
theorem State.Inv.remaining_ksWord (h : s.Inv) (hp : s.phase = Phase.ks.code) (hx : exec .ksWord s = .next t) :
    t.remaining + 1 = s.remaining := by
  obtain ⟨h4, h43⟩ := h.indexInKs hp
  obtain ⟨-, -, rfl⟩ := exec_ksWord_cases hx
  have hphase := s.ksWordWrite_phase s.ki.toNat
  have hki := State.ksWordWrite_ki_toNat s.ki.toNat h43
  rw [State.remaining_of_ks hp]
  by_cases hlast : s.ki.toNat = 43
  · rw [if_pos hlast] at hphase
    rw [State.remaining_of_atRest ((State.atRest_iff _).2 (.inl hphase)), hlast]
  · rw [if_neg hlast] at hphase
    rw [State.remaining_of_ks (hphase.trans hp), hki]
    omega

/-- ENC_INIT: nine rounds and the final one are left (R165). -/
theorem remaining_encInit (hp : s.phase = Phase.init.code) (hx : exec .encInit s = .next t) :
    t.remaining + 1 = s.remaining := by
  obtain ⟨-, hround, hrnd⟩ := exec_encInit_control hx
  rw [State.remaining_of_init hp, State.remaining_of_round hround, hrnd]
  rfl

/-- ENC_ROUND: `RND` advances, and round 9 is the last before the final one (R166). -/
theorem State.Inv.remaining_encRound (h : s.Inv) (hp : s.phase = Phase.round.code) (hx : exec .encRound s = .next t) :
    t.remaining + 1 = s.remaining := by
  obtain ⟨h1, h9⟩ := h.roundInRound hp
  obtain ⟨-, hrnd, ⟨hlast, hfinal⟩ | ⟨-, hround⟩⟩ := exec_encRound_control hx
  · rw [State.remaining_of_round hp, State.remaining_of_final hfinal, hlast]
    rfl
  · have hnext : (s.rnd + 1#4).toNat = s.rnd.toNat + 1 := by bv_omega
    rw [State.remaining_of_round hp, State.remaining_of_round (hround.trans hp), hrnd, hnext]
    omega

/-- ENC_FINAL ends the encryption (R167). -/
theorem remaining_encFinal (hp : s.phase = Phase.final.code) (hx : exec .encFinal s = .next t) :
    t.remaining + 1 = s.remaining := by
  obtain ⟨-, hdone, -⟩ := exec_encFinal_control hx
  rw [State.remaining_of_final hp, State.remaining_of_atRest ((State.atRest_iff t).2 (.inr hdone))]

/-- So does every core step of a busy phase without reset (R171, R222). -/
theorem State.Inv.remaining_step {w : StimulusWord} (h : s.Inv) (hb : s.busy = true) (hw : s.presents w)
    (hr : w.rst = false) (hstep : step s = .next t) : t.remaining + 1 = s.remaining := by
  have htaken : s.taken.Inv := h.of_sameCore rfl
  rcases (State.busy_iff s).1 hb with hp | hp | hp | hp <;> rw [step_of_busy hw hr hp rfl] at hstep
  · exact htaken.remaining_ksWord hp hstep
  · exact remaining_encInit (s := s.taken) hp hstep
  · exact htaken.remaining_encRound hp hstep
  · exact remaining_encFinal (s := s.taken) hp hstep

/-! ### The end of a busy phase -/

/-- Core steps without reset, as many as are left, end with `busy == 0`. By induction on their number. -/
theorem exists_run_not_busy {n : Nat} {ws : List StimulusWord} {rest : List HostLine} (h : s.Inv)
    (hn : s.remaining = n) (hws : n ≤ ws.length) (hrst : ∀ v ∈ ws, v.rst = false)
    (hl : s.pending = ws.map HostLine.stimulus ++ rest) :
    ∃ t : State, Host.Core.run core n s = .next t ∧ t.busy = false := by
  induction n generalizing s ws with
  | zero => exact ⟨s, rfl, h.busy_eq_false_iff.2 hn⟩
  | succ n ih =>
    obtain ⟨w, hr, hline⟩ := exists_nextLine (n := 0) hrst (by omega) hl
    have hb : s.busy = true := by
      by_contra hb
      have hzero := h.busy_eq_false_iff.1 (Bool.eq_false_of_not_eq_true hb)
      omega
    obtain ⟨u, hstep⟩ := everyInvariantStateSteps s h
    have hfall := h.remaining_step hb (State.presented_of_stimulus hline) hr hstep
    have hlength : n ≤ (ws.drop 1).length := by
      rw [List.length_drop]
      omega
    obtain ⟨t, hrun, hend⟩ := ih (everyStepKeepsInvariants s u h hstep) (by omega) hlength
      (fun v hv => hrst v (List.mem_of_mem_drop hv)) (step_pending_of_stimulus hstep hline)
    exact ⟨t, (run_succ_of_step core n hstep).trans hrun, hend⟩

end

/-- Settles O58: the micro-operation of the phase uses up one step, and the next state keeps the invariants, under which
the measure tells whether it is busy. -/
theorem busyPhaseRunsDown : Obligations.BusyPhaseRunsDown := fun s t _ h hb hw hr hstep =>
  ⟨h.remaining_step hb hw hr hstep, (h.remaining_of_busy hb).2,
    (everyStepKeepsInvariants s t h hstep).busy_eq_false_iff⟩

/-- Settles O59: a step that changed none of the three registers would leave the measure as it was, but it falls; and
the steps left, at most 40, lead to the end. -/
theorem busyEndsWithinFortySteps : Obligations.BusyEndsWithinFortySteps := by
  refine ⟨fun s w h hb hw hr => ?_, fun s ws rest h hb hws hrst hl => ?_⟩
  · obtain ⟨t, hstep⟩ := everyInvariantStateSteps s h
    refine ⟨t, hstep, ?_⟩
    by_contra hsame
    push Not at hsame
    obtain ⟨hki, hrnd, hphase⟩ := hsame
    have hfall := h.remaining_step hb hw hr hstep
    rw [State.remaining_congr hphase hki hrnd] at hfall
    omega
  · obtain ⟨-, h40⟩ := h.remaining_of_busy hb
    obtain ⟨t, hrun, hend⟩ := exists_run_not_busy h rfl (h40.trans hws.ge) hrst hl
    exact ⟨s.remaining, t, h40, hrun, hend⟩

end Sys2Proof.Machine
